-- ==== Sys2Proof/Word.lean ====
section
/-! DEFINITION. The words of the block (00_scope.md R10): bytes, host operation words, offsets, and the two levels of a digital line. -/

namespace Sys2Proof

/-- `u8` of R10: a buffer byte, a byte on the bus. -/
abbrev Byte := BitVec 8

/-- `u32` of R10: a host operation word. -/
abbrev Word := BitVec 32

/-- The level of a digital line, 0 or 1 (00_scope.md R8, 10_state.md R18). -/
inductive Level where
  | low
  | high
deriving DecidableEq, Repr, Inhabited

/-- `1 - v` of 41_framer.md R71. -/
def Level.flip : Level → Level
  | .low => .high
  | .high => .low

/-- The level as the bit 0 or 1. -/
def Level.bit : Level → BitVec 1
  | .low => 0
  | .high => 1

end Sys2Proof
end

