-- ==== Sys2Proof/Config.lean ====
section
/-! DEFINITION. What one built block fixes (00_scope.md R7, R8) and the values the spec leaves free.

Every `opaque` constant here is a free value: nothing in Lean can evaluate it, so a statement holds whatever it is. -/

namespace Sys2Proof

/-- `WIDTH` of R7. -/
def width : Nat := 128

/-- `HEIGHT` of R7. -/
def height : Nat := 64

/-- `PAGES = HEIGHT / 8` of R7. -/
def pages : Nat := height / 8

/-- `FB_SIZE = WIDTH * (HEIGHT / 8)` of R7. -/
def fbSize : Nat := width * (height / 8)

/-- The parameter `BIT_ORDER` of R8. No rule reads it (20_memory.md R40; log entry 19). -/
inductive BitOrder where
  | msbFirst
  | lsbFirst
deriving DecidableEq, Repr, Inhabited

/-- The configuration parameters of R8, fixed when the block is built.
A block's state carries its configuration, and no step changes it (DESIGN CHOICE, log entry 2). -/
structure Config where
  hasRst : Bool
  hasCs : Bool
  hasCd : Bool
  csActiveLevel : Level
  cdCommandLevel : Level
  cdInitLevel : Level
  sclkHz : Nat
  cpol : BitVec 1
  cpha : BitVec 1
  bitOrder : BitOrder
  resetHoldMs : Nat
deriving DecidableEq, Repr

/-- The pin level of an asserted chip-select (41_framer.md R71). -/
def Config.csAssert (c : Config) : Level := c.csActiveLevel

/-- The pin level of a deasserted chip-select (R71). -/
def Config.csDeassert (c : Config) : Level := c.csActiveLevel.flip

/-- The pin level of the command state (R71). -/
def Config.cdCommand (c : Config) : Level := c.cdCommandLevel

/-- The pin level of the data state (R71). -/
def Config.cdData (c : Config) : Level := c.cdCommandLevel.flip

/-! The OPEN parameters of the block that `State.reset` describes (log entry 2). -/

opaque Config.openHasRst : Bool
opaque Config.openHasCs : Bool
opaque Config.openCsActiveLevel : Level
opaque Config.openCdCommandLevel : Level
opaque Config.openCdInitLevel : Level
/-- `SCLK_HZ` less one: the parameter is a positive integer. -/
opaque Config.openSclkHzLessOne : Nat
opaque Config.openCpol : BitVec 1
opaque Config.openCpha : BitVec 1
opaque Config.openBitOrder : BitOrder
/-- What `RESET_HOLD_MS` has above 100: the parameter is at least 100. -/
opaque Config.openResetHoldExtraMs : Nat

/-- The block that `State.reset` describes: `HAS_CD = true` is fixed, every other parameter is OPEN (R8). -/
def Config.block : Config where
  hasRst := Config.openHasRst
  hasCs := Config.openHasCs
  hasCd := true
  csActiveLevel := Config.openCsActiveLevel
  cdCommandLevel := Config.openCdCommandLevel
  cdInitLevel := Config.openCdInitLevel
  sclkHz := Config.openSclkHzLessOne + 1
  cpol := Config.openCpol
  cpha := Config.openCpha
  bitOrder := Config.openBitOrder
  resetHoldMs := Config.openResetHoldExtraMs + 100

/-- An order of the three line configurations of 70_reset_and_hazards.md R107: every permutation is one. -/
inductive LineOrder where
  | cdRstCs
  | cdCsRst
  | rstCdCs
  | rstCsCd
  | csCdRst
  | csRstCd
deriving DecidableEq, Repr, Inhabited

/-- One outcome of the bus transport for the write in flight (10_state.md R24). -/
inductive TransportAnswer where
  | ok
  | fail
  | stall
deriving DecidableEq, Repr, Inhabited

/-! The draws of a reset, one set for each time `rst_n` has been sampled low. -/

/-- The byte that reset number `n` leaves at an offset of `FB` (20_memory.md R39; log entry 4). -/
opaque Config.resetByte (n offset : Nat) : Byte

/-- The line order that reset number `n` uses (70_reset_and_hazards.md R107; log entry 5). -/
opaque Config.resetLineOrder (n : Nat) : LineOrder

/-! What the environment of the block that `State.reset` describes will do (log entries 6, 7, 8). -/

/-- The words the host presents, in order. -/
opaque Config.openHostWords : List Word

/-- The transport's answers, in order. -/
opaque Config.openAnswers : List TransportAnswer

/-- The level of `rst_n` at each coming step. -/
opaque Config.openRstLevels : List Level

end Sys2Proof
end

