-- ==== Sys2Proof/Syntax.lean ====
section
/-! DEFINITION. The operations of the block: one constructor for each row of spec/opcode_table.json.

Operand fields have the widths of 30_encoding.md R56 and R59. -/

namespace Sys2Proof

/-- The host operations (R54), the reserved operation codes (R58) and the wire commands (R59). -/
inductive Instr where
  /-- `INIT`, 42_session.md R82. -/
  | init
  /-- `SET_CONTRAST`, 42_session.md R83: the 16-bit value `V`. -/
  | setContrast (v : BitVec 16)
  /-- `SET_INVERSE`, 42_session.md R85: the flag `F`. -/
  | setInverse (f : BitVec 1)
  /-- `SET_CURSOR`, 43_transfer.md R87: the page `P` and the column `C`. -/
  | setCursor (p c : Byte)
  /-- `SEND_BUFFER`, 43_transfer.md R88. -/
  | sendBuffer
  /-- `FB_WRITE`, 40_buffer_access.md R66: the offset `OFF` and the data `D`. -/
  | fbWrite (off : BitVec 16) (d : Byte)
  /-- `FB_READ`, 40_buffer_access.md R67: the offset `OFF`. -/
  | fbRead (off : BitVec 16)
  /-- Reserved codes, R58: the low 28 bits of the word are kept, since `FAULT_INFO` records the word. -/
  | illegalOp0 (rest : BitVec 28)
  | illegalOp8 (rest : BitVec 28)
  | illegalOp9 (rest : BitVec 28)
  | illegalOpA (rest : BitVec 28)
  | illegalOpB (rest : BitVec 28)
  | illegalOpC (rest : BitVec 28)
  | illegalOpD (rest : BitVec 28)
  | illegalOpE (rest : BitVec 28)
  | illegalOpF (rest : BitVec 28)
  /-- Wire commands W1 to W16, R59. -/
  | w1SystemReset
  | w2ScrollLine0
  | w3ComDirectionReversed
  | w4SegmentDirectionNormal
  | w5AllPixelNormal
  | w6InverseDisplay (f : BitVec 1)
  | w7LcdBias
  | w8PowerControl
  | w9BoosterRatio
  | w10VlcdResistorRatio
  | w11Contrast (c6 : BitVec 6)
  | w12CursorUpdateModeReset
  | w13DisplayOn
  | w14PageAddress (p4 : BitVec 4)
  | w15ColumnLow (clo : BitVec 4)
  | w16ColumnHigh (chi : BitVec 4)
deriving DecidableEq, Repr

/-- The two encodings of 30_encoding.md: a word on the host port, the bytes of a command transaction on the device port. -/
inductive Code where
  | host (w : Word)
  | wire (bs : List Byte)
deriving DecidableEq, Repr

end Sys2Proof
end

