-- ==== Sys2Proof/WellFormed.lean ====
section
/-! DEFINITION. Which operations the decoder can yield: the operand types hold every field, so the one check left is the buffer offset (30_encoding.md R57). -/

namespace Sys2Proof

/-- An operation is well formed when its buffer offset, if it has one, names a byte of `FB` (R57). -/
def Instr.wellFormed : Instr → Bool
  | .fbWrite off _ => decide (off.toNat < fbSize)
  | .fbRead off => decide (off.toNat < fbSize)
  | .init | .setContrast _ | .setInverse _ | .setCursor _ _ | .sendBuffer => true
  | .illegalOp0 _ | .illegalOp8 _ | .illegalOp9 _ | .illegalOpA _ | .illegalOpB _ => true
  | .illegalOpC _ | .illegalOpD _ | .illegalOpE _ | .illegalOpF _ => true
  | .w1SystemReset | .w2ScrollLine0 | .w3ComDirectionReversed | .w4SegmentDirectionNormal => true
  | .w5AllPixelNormal | .w6InverseDisplay _ | .w7LcdBias | .w8PowerControl | .w9BoosterRatio => true
  | .w10VlcdResistorRatio | .w11Contrast _ | .w12CursorUpdateModeReset | .w13DisplayOn => true
  | .w14PageAddress _ | .w15ColumnLow _ | .w16ColumnHigh _ => true

end Sys2Proof
end

