-- ==== Sys2Proof/Decode.lean ====
section
/-! DEFINITION. Decoding and encoding, from the tables of 30_encoding.md R53, R54, R57 and R59. -/

namespace Sys2Proof

/-- Why a host operation word is no operation: the second and third checks of R57. The first, `ILLEGAL_OP`,
is no rejection: the words with a reserved code are rows of the opcode table. -/
inductive WordReject where
  | reservedBits
  | fbRange
deriving DecidableEq, Repr

/-- Why a byte list is not one wire command of R59. -/
inductive WireReject where
  | emptyTransaction
  | notAWireCommand
  | missingParameter
  | parameterOutOfForm
  | bytesAfterCommand
deriving DecidableEq, Repr

/-- Why a code of either kind is no operation. -/
inductive Reject where
  | word (r : WordReject)
  | wire (r : WireReject)
deriving DecidableEq, Repr

/-! ### Host operation words -/

/-- `OP = w[31:28]` (R53). -/
def opField (w : Word) : BitVec 4 := w.extractLsb' 28 4

/-- `w[27:0]`, the operand bits (R53). -/
def restField (w : Word) : BitVec 28 := w.extractLsb' 0 28

/-- `V = w[15:0]` (R56). -/
def valueField (w : Word) : BitVec 16 := w.extractLsb' 0 16

/-- `F = w[0]` (R56). -/
def flagField (w : Word) : BitVec 1 := w.extractLsb' 0 1

/-- `P = w[15:8]` (R56). -/
def pageField (w : Word) : Byte := w.extractLsb' 8 8

/-- `C = w[7:0]` (R56). -/
def columnField (w : Word) : Byte := w.extractLsb' 0 8

/-- `OFF = w[23:8]` (R53, R56). -/
def offsetField (w : Word) : BitVec 16 := w.extractLsb' 8 16

/-- `D = w[7:0]` (R53, R56). -/
def dataField (w : Word) : Byte := w.extractLsb' 0 8

/-- The must-be-zero mask of an operation code (R54); the reserved codes have none. -/
def mustBeZero (op : BitVec 4) : Word :=
  if op = 0x1 then 0x0FFFFFFF
  else if op = 0x2 then 0x0FFF0000
  else if op = 0x3 then 0x0FFFFFFE
  else if op = 0x4 then 0x0FFF0000
  else if op = 0x5 then 0x0FFFFFFF
  else if op = 0x6 then 0x0F000000
  else if op = 0x7 then 0x0F0000FF
  else 0

/-- The operation an operation code selects, with the operands of its format (R53, R54, R56, R58). -/
def selectOp (w : Word) : Instr :=
  if opField w = 0x1 then .init
  else if opField w = 0x2 then .setContrast (valueField w)
  else if opField w = 0x3 then .setInverse (flagField w)
  else if opField w = 0x4 then .setCursor (pageField w) (columnField w)
  else if opField w = 0x5 then .sendBuffer
  else if opField w = 0x6 then .fbWrite (offsetField w) (dataField w)
  else if opField w = 0x7 then .fbRead (offsetField w)
  else if opField w = 0x8 then .illegalOp8 (restField w)
  else if opField w = 0x9 then .illegalOp9 (restField w)
  else if opField w = 0xA then .illegalOpA (restField w)
  else if opField w = 0xB then .illegalOpB (restField w)
  else if opField w = 0xC then .illegalOpC (restField w)
  else if opField w = 0xD then .illegalOpD (restField w)
  else if opField w = 0xE then .illegalOpE (restField w)
  else if opField w = 0xF then .illegalOpF (restField w)
  else .illegalOp0 (restField w)

/-- `decode` of R57 up to its last check. A reserved code has no must-be-zero mask and no offset, so
`ILLEGAL_OP` comes first, as R57 and 60_exceptions.md R95 order it: the row it selects raises it. -/
def decodeHost (w : Word) : Except WordReject Instr :=
  if w &&& mustBeZero (opField w) ≠ 0 then .error .reservedBits
  else if (selectOp w).wellFormed then .ok (selectOp w)
  else .error .fbRange

/-! ### Wire commands -/

/-- The command that a one-byte transaction holds (R59), or none. -/
def decodeOneByte (b : Byte) : Option Instr :=
  if b = 0xE2 then some .w1SystemReset
  else if b = 0x40 then some .w2ScrollLine0
  else if b = 0xC8 then some .w3ComDirectionReversed
  else if b = 0xA0 then some .w4SegmentDirectionNormal
  else if b = 0xA4 then some .w5AllPixelNormal
  else if b &&& 0xFE = 0xA6 then some (.w6InverseDisplay (b.extractLsb' 0 1))
  else if b = 0xA2 then some .w7LcdBias
  else if b = 0x27 then some .w8PowerControl
  else if b = 0x23 then some .w10VlcdResistorRatio
  else if b = 0xEE then some .w12CursorUpdateModeReset
  else if b = 0xAF then some .w13DisplayOn
  else if b &&& 0xF0 = 0xB0 then some (.w14PageAddress (b.extractLsb' 0 4))
  else if b &&& 0xF0 = 0x00 then some (.w15ColumnLow (b.extractLsb' 0 4))
  else if b &&& 0xF0 = 0x10 then some (.w16ColumnHigh (b.extractLsb' 0 4))
  else none

/-- Whether a first byte calls for a parameter byte: "The first byte `0x81` or `0xF8` means two bytes, and
any other first byte means one" (R61). -/
def takesParameter (b : Byte) : Bool := b = 0x81 || b = 0xF8

/-- The two-byte commands: W9 with parameter 0, W11 with a parameter of six bits (R59). -/
def decodeTwoBytes (b param : Byte) : Except WireReject Instr :=
  if b = 0xF8 then
    if param = 0 then .ok .w9BoosterRatio else .error .parameterOutOfForm
  else if b = 0x81 then
    if param &&& 0xC0 = 0 then .ok (.w11Contrast (param.extractLsb' 0 6)) else .error .parameterOutOfForm
  else .error .notAWireCommand

/-- Read one wire command from the front of a byte list, and what follows it. -/
def decodeWire : List Byte → Except WireReject (Instr × List Byte)
  | [] => .error .emptyTransaction
  | b :: rest =>
    if takesParameter b then
      match rest with
      | [] => .error .missingParameter
      | param :: rest' =>
        match decodeTwoBytes b param with
        | .ok i => .ok (i, rest')
        | .error e => .error e
    else
      match decodeOneByte b with
      | some i => .ok (i, rest)
      | none => .error .notAWireCommand

/-- A command transaction "holds exactly one wire command" (R61). -/
def decodeTransaction (bs : List Byte) : Except WireReject Instr :=
  match decodeWire bs with
  | .error e => .error e
  | .ok (i, []) => .ok i
  | .ok (_, _ :: _) => .error .bytesAfterCommand

/-- Both encodings of the block, total on every word and every byte list. -/
def decode : Code → Except Reject Instr
  | .host w =>
    match decodeHost w with
    | .ok i => .ok i
    | .error r => .error (.word r)
  | .wire bs =>
    match decodeTransaction bs with
    | .ok i => .ok i
    | .error r => .error (.wire r)

/-! ### The encoder -/

/-- `OP << 28` with the operand bits below it (R53, R54). -/
def opWord (op : BitVec 4) (rest : BitVec 28) : Word := (op.setWidth 32 <<< 28) ||| rest.setWidth 32

/-- Two operand fields side by side: the upper one from bit 8 up, the lower one in bits 7 to 0 (formats `PC` and `OD` of R53). -/
def overByte (upper : BitVec 16) (lower : Byte) : BitVec 28 := (upper.setWidth 28 <<< 8) ||| lower.setWidth 28

/-- The encoding of every operation, from the formats of R53 and the byte forms of R59. -/
def encode : Instr → Code
  | .init => .host (opWord 0x1 0)
  | .setContrast v => .host (opWord 0x2 (v.setWidth 28))
  | .setInverse f => .host (opWord 0x3 (f.setWidth 28))
  | .setCursor p c => .host (opWord 0x4 (overByte (p.setWidth 16) c))
  | .sendBuffer => .host (opWord 0x5 0)
  | .fbWrite off d => .host (opWord 0x6 (overByte off d))
  | .fbRead off => .host (opWord 0x7 (overByte off 0))
  | .illegalOp0 rest => .host (opWord 0x0 rest)
  | .illegalOp8 rest => .host (opWord 0x8 rest)
  | .illegalOp9 rest => .host (opWord 0x9 rest)
  | .illegalOpA rest => .host (opWord 0xA rest)
  | .illegalOpB rest => .host (opWord 0xB rest)
  | .illegalOpC rest => .host (opWord 0xC rest)
  | .illegalOpD rest => .host (opWord 0xD rest)
  | .illegalOpE rest => .host (opWord 0xE rest)
  | .illegalOpF rest => .host (opWord 0xF rest)
  | .w1SystemReset => .wire [0xE2]
  | .w2ScrollLine0 => .wire [0x40]
  | .w3ComDirectionReversed => .wire [0xC8]
  | .w4SegmentDirectionNormal => .wire [0xA0]
  | .w5AllPixelNormal => .wire [0xA4]
  | .w6InverseDisplay f => .wire [0xA6#8 ||| f.setWidth 8]
  | .w7LcdBias => .wire [0xA2]
  | .w8PowerControl => .wire [0x27]
  | .w9BoosterRatio => .wire [0xF8, 0x00]
  | .w10VlcdResistorRatio => .wire [0x23]
  | .w11Contrast c6 => .wire [0x81, c6.setWidth 8]
  | .w12CursorUpdateModeReset => .wire [0xEE]
  | .w13DisplayOn => .wire [0xAF]
  | .w14PageAddress p4 => .wire [0xB0#8 ||| p4.setWidth 8]
  | .w15ColumnLow clo => .wire [0x00#8 ||| clo.setWidth 8]
  | .w16ColumnHigh chi => .wire [0x10#8 ||| chi.setWidth 8]

/-- The word of a host operation, as `FAULT_INFO` records it; a wire command has none (R3). -/
def Instr.hostWord (i : Instr) : Word :=
  match encode i with
  | .host w => w
  | .wire _ => 0

/-- The bytes of a wire command's transaction; a host operation has none. -/
def Instr.wireBytes (i : Instr) : List Byte :=
  match encode i with
  | .host _ => []
  | .wire bs => bs

/-! ### The opcode table's own numbering of bits -/

/-- The first `n` bytes of `w`, least significant first. -/
def tableBytes : Nat → Nat → List Byte
  | 0, _ => []
  | n + 1, w => BitVec.ofNat 8 w :: tableBytes n (w / 256)

/-- `w` with the bits from `nbits` up cleared. -/
def tableBits (nbits w : Nat) : Nat := w % 2 ^ nbits

/-- Rows of more than 16 bits are host operation words, the others are wire commands (spec/opcode_table.json). -/
def tableRowIsHost (nbits : Nat) : Bool := decide (16 < nbits)

/-- The bytes a wire row stores: one wire command at most, with a parameter byte of zeros where the row gives none. -/
def tableWireBytes (nbits w : Nat) : List Byte :=
  match tableBytes 2 (tableBits nbits w) with
  | b :: param :: _ => if takesParameter b then [b, param] else if nbits ≤ 8 then [b] else [b, param]
  | bs => bs

/-- The operation read from a row's bits, numbered as spec/opcode_table.json numbers them. -/
def decodeTableWord (nbits w : Nat) : Option Instr :=
  let code : Code :=
    if tableRowIsHost nbits then .host (BitVec.ofNat 32 (tableBits nbits w)) else .wire (tableWireBytes nbits w)
  match decode code with
  | .ok i => some i
  | .error _ => none

end Sys2Proof
end

