-- ==== Sys2Proof/Machine/Action.lean ====
section
/-! DEFINITION. The sequencer's actions (10_state.md R22) and the events of the device port (20_memory.md R46). -/

namespace Sys2Proof.Machine

/-- The session state (10_state.md R18, R20). -/
inductive Sess where
  | uninit
  | config
  | ready
  | faulted
deriving DecidableEq, Repr

/-- The three digital lines (00_scope.md R12). -/
inductive Line where
  | rst
  | cs
  | cd
deriving DecidableEq, Repr

/-- One sequencer action (R22). -/
inductive Action where
  | lineConfig (l : Line) (v : Level)
  | lineSet (l : Line) (v : Level)
  | busConfig
  | busWrite (bs : List Byte)
  | wait (ms : Nat)
  | setSess (x : Sess)
deriving DecidableEq, Repr

/-- One event of the device-side trace (R46). -/
inductive Event where
  | lineConfig (l : Line) (v : Level)
  | lineSet (l : Line) (v : Level)
  | busConfig (rate : Nat) (cpol cpha : BitVec 1)
  | write (bs : List Byte)
  | writeFault (bs : List Byte)
  | delay (ms : Nat)
deriving DecidableEq, Repr

end Sys2Proof.Machine
end

