-- ==== Sys2Proof/Machine/Operands.lean ====
section
/-! DEFINITION. Operand arithmetic (30_encoding.md R56) and the pixel layout of the buffer (20_memory.md R35 to R38). -/

namespace Sys2Proof.Machine

/-- `c6 = (V >> 2) & 0x3F` (R56, 42_session.md R83), as the parameter byte of W11. -/
def contrastByte (v : BitVec 16) : Byte := ((v >>> 2) &&& 0x3F#16).setWidth 8

/-- `0xA6 | F` (42_session.md R85). -/
def inverseByte (f : BitVec 1) : Byte := 0xA6#8 ||| f.setWidth 8

/-- `0xB0 | (P & 0x0F)` (43_transfer.md R86). -/
def pageByte (p : Byte) : Byte := 0xB0#8 ||| (p &&& 0x0F#8)

/-- `0x00 | (C & 0x0F)` (R86). -/
def columnLowByte (c : Byte) : Byte := 0x00#8 ||| (c &&& 0x0F#8)

/-- `0x10 | ((C >> 4) & 0x0F)` (R86). -/
def columnHighByte (c : Byte) : Byte := 0x10#8 ||| ((c >>> 4) &&& 0x0F#8)

/-- A coordinate pair that has a pixel (20_memory.md R37, 40_buffer_access.md R68). -/
def pixInRange (x y : Nat) : Bool := decide (x < width) && decide (y < height)

/-- `pix_offset(x, y) = (y >> 3) * 128 + x` (R37). -/
def pixOffset (x y : Nat) : Nat := (y >>> 3) * 128 + x

/-- `pix_bit(x, y) = y & 7` (R37). Bit `b` has weight `2^b` (R36; log entry 18). -/
def pixBit (_x y : Nat) : Nat := y &&& 7

/-- `(b >> k) & 1`: bit `k` of a buffer byte (R37). -/
def byteBit (b : Byte) (k : Nat) : BitVec 1 := (b >>> k).setWidth 1

/-- `b' = (b & ~(1 << k) & 0xFF) | ((v & 1) << k)` (40_buffer_access.md R69). -/
def byteWithBit (b : Byte) (k : Nat) (v : BitVec 1) : Byte :=
  (b &&& ~~~(1#8 <<< k) &&& 0xFF#8) ||| (v.setWidth 8 <<< k)

end Sys2Proof.Machine
end

