-- ==== Sys2Proof/Machine/Framing.lean ====
section
/-! DEFINITION. The action lists of the framer (41_framer.md), the cursor (43_transfer.md R86) and the session
(42_session.md R79, R82; 70_reset_and_hazards.md R107). -/

namespace Sys2Proof.Machine

/-- Whether the configuration has a line: `HAS_CD` is required (00_scope.md R8, 41_framer.md R75). -/
def hasLine (c : Config) : Line → Bool
  | .rst => c.hasRst
  | .cs => c.hasCs
  | .cd => true

/-- A chip-select step of a transaction, left out when there is no chip-select line (41_framer.md R74). -/
def csStep (c : Config) (v : Level) : List Action :=
  if c.hasCs then [.lineSet .cs v] else []

/-- One transaction with the command/data line at `cd` (R72, R73). -/
def frame (c : Config) (cd : Level) (bs : List Byte) : List Action :=
  [.busConfig] ++ csStep c c.csDeassert ++ [.lineSet .cd cd] ++ csStep c c.csAssert ++ [.busWrite bs]
    ++ csStep c c.csDeassert

/-- `frame_cmd(bs)` (R72). -/
def frameCmd (c : Config) (bs : List Byte) : List Action := frame c c.cdCommand bs

/-- `frame_data(bs)` (R73). -/
def frameData (c : Config) (bs : List Byte) : List Action := frame c c.cdData bs

/-- `cursor(P, C)` (43_transfer.md R86). -/
def cursor (c : Config) (p col : Byte) : List Action :=
  frameCmd c [pageByte p] ++ frameCmd c [columnLowByte col] ++ frameCmd c [columnHighByte col]

/-- `reset_pulse` (42_session.md R79). -/
def resetPulse (c : Config) : List Action :=
  if c.hasRst then [.lineSet .rst .low, .wait c.resetHoldMs, .lineSet .rst .high] else []

/-- Rows 2 to 13 of 42_session.md R80. -/
def configurationRows : List (List Byte) :=
  [[0x40], [0xC8], [0xA0], [0xA4], [0xA6], [0xA2], [0x27], [0xF8, 0x00], [0x23], [0x81, 0x20], [0xEE], [0xAF]]

/-- `init_actions` (42_session.md R82). -/
def initActions (c : Config) : List Action :=
  [.setSess .uninit] ++ resetPulse c ++ frameCmd c [0xE2] ++ [.setSess .config]
    ++ configurationRows.flatMap (frameCmd c) ++ cursor c 0 0 ++ [.setSess .ready]

/-- The lines in a given order (70_reset_and_hazards.md R107). -/
def orderedLines : LineOrder → List Line
  | .cdRstCs => [.cd, .rst, .cs]
  | .cdCsRst => [.cd, .cs, .rst]
  | .rstCdCs => [.rst, .cd, .cs]
  | .rstCsCd => [.rst, .cs, .cd]
  | .csCdRst => [.cs, .cd, .rst]
  | .csRstCd => [.cs, .rst, .cd]

/-- The configuration of one line, absent when the line is (R107). -/
def lineConfigOf (c : Config) : Line → List Action
  | .cd => [.lineConfig .cd c.cdInitLevel]
  | .rst => if c.hasRst then [.lineConfig .rst .high] else []
  | .cs => if c.hasCs then [.lineConfig .cs c.csDeassert] else []

/-- `construction = line_configs ++ init_actions` (R107), with the line order a draw of the reset. -/
def construction (c : Config) (o : LineOrder) : List Action :=
  (orderedLines o).flatMap (lineConfigOf c) ++ initActions c

/-- The transactions of one page: the cursor at (page, 0), then the page's bytes as one data transaction
(43_transfer.md R88). -/
def pageActions (c : Config) (slice : Nat → Nat → List Byte) (p : Nat) : List Action :=
  cursor c (BitVec.ofNat 8 p) 0 ++ frameData c (slice (p * width) width)

/-- `SEND_BUFFER`'s action list: pages 0 to 7 in order (R88). -/
def sendBufferActions (c : Config) (slice : Nat → Nat → List Byte) : List Action :=
  (List.range pages).flatMap (pageActions c slice)

/-- The level a line is configured at or set to by an action, as the trace shows it. -/
def Action.line? : Action → Option Line
  | .lineConfig l _ | .lineSet l _ => some l
  | .busConfig | .busWrite _ | .wait _ | .setSess _ => none

end Sys2Proof.Machine
end

