-- ==== Sys2Proof/Machine/State.lean ====
section
/-! DEFINITION. The state of the block (10_state.md R18), its inputs, its outputs, and the state right after reset (70_reset_and_hazards.md R106). -/

namespace Sys2Proof.Machine

/-- The pixel buffer: a byte at each offset. An unlisted offset reads as no value, since `FB` has no byte
outside 0 to 1023 (20_memory.md R32); the listed offsets are exactly those, at every moment (R33). -/
abbrev Memory := List Host.Cell

/-- The one form of a buffer: exactly the offsets 0 to 1023, in rising order (R32, R33; log entry 4). -/
abbrev Memory.wf (m : Memory) : Prop := m.map Prod.fst = List.range fbSize

/-- What a line was last driven to; `unconf` before it is configured as an output (R18). -/
inductive PinLevel where
  | unconf
  | driven (v : Level)
deriving DecidableEq, Repr

/-- The fault codes of 60_exceptions.md R90: the reserved codes 5 to 15 have no constructor. -/
inductive FaultCode where
  | none
  | transportFault
  | illegalOp
  | reservedBits
  | fbRange
deriving DecidableEq, Repr

/-- `PENDING` of R18: the blocking external action in flight. -/
inductive Pending where
  | none
  | write (bs : List Byte)
  | delay (ms : Nat)
deriving DecidableEq, Repr

/-- `RESP` of R18: the response to return when `seq` empties. -/
inductive Resp where
  | none
  | ack
  | data (b : Byte)
deriving DecidableEq, Repr

/-- A response on the host port (00_scope.md R12). -/
inductive Response where
  | ack
  | data (b : Byte)
  | fault (code : FaultCode)
deriving DecidableEq, Repr

/-- Why the model stops. A fault of the block itself (R90, R93) is a next state with `sess = .faulted`, never one of these. -/
inductive Fault where
  /-- Raised by an action on a line the configuration does not have. The spec says such an action is never
  generated (R22), and no run from a reset reaches one. Safe: the model stops (log entry 14). -/
  | absentLine (l : Line)
deriving DecidableEq, Repr

/-- Why the model gives no meaning. -/
inductive Refusal where
  /-- An arm of `exec` with no meaning yet. No arm answers it. Safe. -/
  | notModelled (mnemonic : String)
  /-- Raised by a step of a block without a command/data line: the spec refuses it (41_framer.md R75). Safe. -/
  | noCommandDataLine
  /-- Raised by a step of a block whose reset hold is under 100 ms: the spec refuses it (70_reset_and_hazards.md R113). Safe. -/
  | resetHoldTooShort
  /-- Raised by a step of a block whose bus clock rate is not positive (00_scope.md R8; log entry 3). Safe. -/
  | clockRateNotPositive
deriving DecidableEq, Repr

/-- The state of the block, with its configuration, its outputs and its inputs. -/
structure State where
  /-- The configuration, never changed by a step (00_scope.md R8; log entry 2). -/
  cfg : Config
  /-- `FB`. -/
  fb : Memory
  /-- `SESS`. -/
  sess : Sess
  /-- `BUSY`. -/
  busy : Bool
  /-- `FAULT_CODE`. -/
  faultCode : FaultCode
  /-- `FAULT_INFO`. -/
  faultInfo : Word
  /-- `CUR_OP`. -/
  curOp : Word
  /-- Whether `CUR_OP` came from the host (implied by R27 and R93; log entry 9). -/
  fromHost : Bool
  /-- `seq`. -/
  seq : List Action
  /-- `PENDING`. -/
  pending : Pending
  /-- `RESP`. -/
  resp : Resp
  /-- `LVL_RST`; no value when the line is absent. -/
  lvlRst : Option PinLevel
  /-- `LVL_CS`; no value when the line is absent. -/
  lvlCs : Option PinLevel
  /-- `LVL_CD`. -/
  lvlCd : PinLevel
  /-- `CLOCK_RATE`. -/
  clockRate : Nat
  /-- The device port: the events emitted so far, oldest first (20_memory.md R46). -/
  trace : List Event
  /-- The host port's output: the responses returned so far, oldest first (R27). -/
  responses : List Response
  /-- The host port's input: the words the host will present, the first one presented now (log entry 6). -/
  hostWords : List Word
  /-- The transport's answers still to come (R24; log entry 7). -/
  answers : List TransportAnswer
  /-- The level of `rst_n` at each coming step, high when the list is empty (R105; log entry 8). -/
  rstN : List Level
  /-- How often `rst_n` has been sampled low: the index of the next draws (log entries 4 and 5). -/
  resets : Nat
deriving DecidableEq, Repr

/-- `CUR_OP` of the automatic initialization (R18). -/
def autoInitOp : Word := 0x10000000

/-- A buffer that holds `f i` at offset `i`. -/
def Memory.ofFn (f : Nat → Byte) : Memory := (List.range' 0 fbSize).map fun i => (i, f i)

/-- The level register of an optional line before the line is configured. -/
def unconfiguredIf (present : Bool) : Option PinLevel := if present then some .unconf else none

/-- Every piece of the block's state right after a reset (70_reset_and_hazards.md R106), for a configuration,
a line order and buffer contents; no event has been emitted, no response returned, and no input is to come. -/
def State.constructed (c : Config) (o : LineOrder) (fb : Memory) : State where
  cfg := c
  fb := fb
  sess := .uninit
  busy := true
  faultCode := .none
  faultInfo := 0
  curOp := autoInitOp
  fromHost := false
  seq := construction c o
  pending := .none
  resp := .none
  lvlRst := unconfiguredIf c.hasRst
  lvlCs := unconfiguredIf c.hasCs
  lvlCd := .unconf
  clockRate := c.sclkHz
  trace := []
  responses := []
  hostWords := []
  answers := []
  rstN := []
  resets := 0

/-- The machine right after reset: the draws and the inputs are free values (log entries 2, 4, 5, 6, 7, 8). -/
def State.reset : State :=
  { State.constructed Config.block (Config.resetLineOrder 0) (Memory.ofFn (Config.resetByte 0)) with
    hostWords := Config.openHostWords
    answers := Config.openAnswers
    rstN := Config.openRstLevels
    resets := 0 }

end Sys2Proof.Machine
end

