-- ==== Sys2Proof/Machine/Ops.lean ====
section
/-! DEFINITION. The operations the meanings and the step are made of: buffer access, the ports, the effect of an
action, the transport and timer steps, taking a fault, completing an operation, and the block's reset. -/

namespace Sys2Proof.Machine

/-- The outcomes of this machine. -/
abbrev Result := Host.Outcome State Fault Refusal

/-! ### The pixel buffer (20_memory.md R32, R43) -/

/-- `MemRead(a, 1)`: the byte at offset `a`, no value where `FB` has no byte. -/
def Memory.read : Memory → Nat → Option Byte
  | [], _ => none
  | (k, b) :: m, a => if k = a then some b else Memory.read m a

/-- `FB` with the byte at offset `a` replaced: no other offset changes, and the listed offsets stay the same. -/
def Memory.put (m : Memory) (a : Nat) (d : Byte) : Memory :=
  m.map fun cell => if cell.1 = a then (a, d) else cell

/-- `MemWrite(a, 1, d)`: no value where `FB` has no byte at `a`. -/
def Memory.write (m : Memory) (a : Nat) (d : Byte) : Option Memory :=
  match m.read a with
  | some _ => some (m.put a d)
  | none => none

/-- `slice(FB, start, n)` of 00_scope.md R11: the bytes at `start` to `start + n - 1`. -/
def Memory.slice (m : Memory) (start n : Nat) : List Byte := ((m.drop start).take n).map Prod.snd

/-- `(FB[pix_offset(x, y)] >> pix_bit(x, y)) & 1` (R37); no value outside the grid (40_buffer_access.md R68). -/
def Memory.pixel (m : Memory) (x y : Nat) : Option (BitVec 1) :=
  if pixInRange x y then (m.read (pixOffset x y)).map fun b => byteBit b (pixBit x y) else none

/-! ### The ports -/

/-- `emit(e)` (00_scope.md R12, 20_memory.md R46). -/
def State.emit (e : Event) (s : State) : State := { s with trace := s.trace ++ [e] }

/-- `respond(r)` (R12). -/
def State.respond (r : Response) (s : State) : State := { s with responses := s.responses ++ [r] }

/-- `respond(r)` when the operation came from the host (10_state.md R27, 60_exceptions.md R93). -/
def State.respondToHost (r : Response) (s : State) : State := if s.fromHost then s.respond r else s

/-! ### The effect of one action (10_state.md R22) -/

/-- `LVL_l <- v`. -/
def State.driveLine (l : Line) (v : Level) (s : State) : State :=
  match l with
  | .rst => { s with lvlRst := some (.driven v) }
  | .cs => { s with lvlCs := some (.driven v) }
  | .cd => { s with lvlCd := .driven v }

/-- A line action: drive the line and emit its event. On a line the configuration lacks, which R22 says no
action names, the model stops (log entry 14). -/
def lineAction (l : Line) (v : Level) (e : Event) (s : State) : Result :=
  if hasLine s.cfg l then .next ((s.driveLine l v).emit e) else .fault (.absentLine l)

/-- `PENDING <- Write(bs)`: the effect of `BusWrite(bs)`. -/
def startWrite (bs : List Byte) (s : State) : Result := .next { s with pending := .write bs }

/-- `do(a)` (R22). `CLOCK_RATE` holds `SCLK_HZ`, and the bus is configured from it (log entry 16). -/
def doAction (a : Action) (s : State) : Result :=
  match a with
  | .lineConfig l v => lineAction l v (.lineConfig l v) s
  | .lineSet l v => lineAction l v (.lineSet l v) s
  | .busConfig => .next (s.emit (.busConfig s.clockRate s.cfg.cpol s.cfg.cpha))
  | .busWrite bs => startWrite bs s
  | .wait ms => .next { s with pending := .delay ms }
  | .setSess x => .next { s with sess := x }

/-! ### Taking a fault (60_exceptions.md R93); the return is the block's reset alone (R96) -/

/-- The state change of `raise Fault(code, info)`, the response aside. -/
def State.enterFault (code : FaultCode) (info : Word) (s : State) : State :=
  { s with
    faultCode := code
    faultInfo := info
    sess := .faulted
    seq := []
    pending := .none
    busy := false }

/-- `raise Fault(code, info)` (R93): one step, and a next state. -/
def State.raiseFault (code : FaultCode) (info : Word) (s : State) : State :=
  (s.enterFault code info).respondToHost (.fault code)

/-! ### Loading and completing an operation -/

/-- `seq <- as; RESP <- r`: the accept-time part of an operation rule (00_scope.md R12). -/
def State.load (as : List Action) (r : Resp) (s : State) : State := { s with seq := as, resp := r }

/-- `respond(RESP)`, or `respond(ACK)` when `RESP = None` (10_state.md R27). -/
def Resp.response : Resp → Response
  | .none => .ack
  | .ack => .ack
  | .data b => .data b

/-- The operation completes (R27). -/
def State.complete (s : State) : State := { s with busy := false }.respondToHost s.resp.response

/-! ### The agents outside: transport, timer, `rst_n` -/

/-- While `PENDING = Write(bs)` (R24). A transport that has given no answer stalls (log entry 7), and a stall is
a step that changes nothing (log entry 1). A failed write's delivered part is the display's (log entry 20). -/
def transportStep (bs : List Byte) (s : State) : Result :=
  match s.answers with
  | .ok :: later => .next { s.emit (.write bs) with pending := .none, answers := later }
  | .fail :: later =>
    .next ({ s.emit (.writeFault bs) with answers := later }.raiseFault .transportFault s.curOp)
  | .stall :: _ => .next s
  | [] => .next s

/-- While `PENDING = Delay(ms)`: the timer completes (R25; log entry 15). -/
def timerStep (ms : Nat) (s : State) : Result := .next { s.emit (.delay ms) with pending := .none }

/-- `rst_n` sampled low (70_reset_and_hazards.md R105, R106): every piece of the block's state takes its reset
value, with fresh draws. What has left on the ports stays emitted (R46; log entry 10), no response is
returned, and the inputs are the environment's (log entry 8). -/
def State.resetBlock (s : State) : State :=
  { State.constructed s.cfg (Config.resetLineOrder (s.resets + 1)) (Memory.ofFn (Config.resetByte (s.resets + 1))) with
    trace := s.trace
    responses := s.responses
    hostWords := s.hostWords
    answers := s.answers
    rstN := s.rstN
    resets := s.resets + 1 }

/-! ### The host port -/

/-- `accept(op)` up to `decode` (10_state.md R26): the word leaves the host's list. -/
def State.accepted (w : Word) (later : List Word) (s : State) : State :=
  { s with curOp := w, busy := true, fromHost := true, resp := .none, hostWords := later }

/-- The fault that `decode` raises for a word it rejects (30_encoding.md R57). -/
def rejectFault : WordReject → FaultCode
  | .reservedBits => .reservedBits
  | .fbRange => .fbRange

/-- The configurations the spec refuses (R75, R112, R113; R8 for the clock rate; log entry 3). -/
def configRefusal (c : Config) : Option Refusal :=
  if c.hasCd = false then some .noCommandDataLine
  else if c.resetHoldMs < 100 then some .resetHoldTooShort
  else if c.sclkHz = 0 then some .clockRateNotPositive
  else none

end Sys2Proof.Machine
end

