-- ==== Sys2Proof/Machine/Buffer.lean ====
section
/-! DEFINITION. Buffer access: `FB_WRITE` and `FB_READ` (40_buffer_access.md R66, R67).

`decode` has rejected an offset of 1024 or more before either meaning runs; a meaning given such an offset
finds no byte and raises the same fault (30_encoding.md R57; log entry 13). -/

namespace Sys2Proof.Machine

/-- `FB_WRITE(OFF, D)` at accept time (R66). -/
def execFbWrite (off : BitVec 16) (d : Byte) (s : State) : Result :=
  match s.fb.write off.toNat d with
  | some fb => .next ({ s with fb := fb }.load [] .ack)
  | none => .next (s.raiseFault .fbRange (Instr.fbWrite off d).hostWord)

/-- `FB_READ(OFF)` at accept time (R67). -/
def execFbRead (off : BitVec 16) (s : State) : Result :=
  match s.fb.read off.toNat with
  | some b => .next (s.load [] (.data b))
  | none => .next (s.raiseFault .fbRange (Instr.fbRead off).hostWord)

end Sys2Proof.Machine
end

