-- ==== Sys2Proof/Machine/Reserved.lean ====
section
/-! DEFINITION. The reserved operation codes raise `ILLEGAL_OP` with the word itself (30_encoding.md R57, R58; 60_exceptions.md R90). -/

namespace Sys2Proof.Machine

/-- `raise Fault(ILLEGAL_OP, w)` (R57). -/
def raiseIllegalOp (w : Word) (s : State) : Result := .next (s.raiseFault .illegalOp w)

/-- Operation code 0x0 (R58). -/
def execIllegalOp0 (rest : BitVec 28) (s : State) : Result := raiseIllegalOp (Instr.illegalOp0 rest).hostWord s

/-- Operation code 0x8 (R58). -/
def execIllegalOp8 (rest : BitVec 28) (s : State) : Result := raiseIllegalOp (Instr.illegalOp8 rest).hostWord s

/-- Operation code 0x9 (R58). -/
def execIllegalOp9 (rest : BitVec 28) (s : State) : Result := raiseIllegalOp (Instr.illegalOp9 rest).hostWord s

/-- Operation code 0xA (R58). -/
def execIllegalOpA (rest : BitVec 28) (s : State) : Result := raiseIllegalOp (Instr.illegalOpA rest).hostWord s

/-- Operation code 0xB (R58). -/
def execIllegalOpB (rest : BitVec 28) (s : State) : Result := raiseIllegalOp (Instr.illegalOpB rest).hostWord s

/-- Operation code 0xC (R58). -/
def execIllegalOpC (rest : BitVec 28) (s : State) : Result := raiseIllegalOp (Instr.illegalOpC rest).hostWord s

/-- Operation code 0xD (R58). -/
def execIllegalOpD (rest : BitVec 28) (s : State) : Result := raiseIllegalOp (Instr.illegalOpD rest).hostWord s

/-- Operation code 0xE (R58). -/
def execIllegalOpE (rest : BitVec 28) (s : State) : Result := raiseIllegalOp (Instr.illegalOpE rest).hostWord s

/-- Operation code 0xF (R58). -/
def execIllegalOpF (rest : BitVec 28) (s : State) : Result := raiseIllegalOp (Instr.illegalOpF rest).hostWord s

end Sys2Proof.Machine
end

