-- ==== Sys2Proof/Machine/Session.lean ====
section
/-! DEFINITION. Session operations at accept time: `INIT`, `SET_CONTRAST`, `SET_INVERSE` (42_session.md R82, R83, R85). -/

namespace Sys2Proof.Machine

/-- `INIT`: `seq <- init_actions; RESP <- ACK` (R82). -/
def execInit (s : State) : Result := .next (s.load (initActions s.cfg) .ack)

/-- `SET_CONTRAST(V)`: `seq <- frame_cmd([0x81, c6]); RESP <- ACK` (R83). -/
def execSetContrast (v : BitVec 16) (s : State) : Result :=
  .next (s.load (frameCmd s.cfg [0x81, contrastByte v]) .ack)

/-- `SET_INVERSE(F)`: `seq <- frame_cmd([0xA6 | F]); RESP <- ACK` (R85). -/
def execSetInverse (f : BitVec 1) (s : State) : Result := .next (s.load (frameCmd s.cfg [inverseByte f]) .ack)

end Sys2Proof.Machine
end

