-- ==== Sys2Proof/Machine/Transfer.lean ====
section
/-! DEFINITION. Cursor addressing and page transfer at accept time: `SET_CURSOR`, `SEND_BUFFER` (43_transfer.md R87, R88). -/

namespace Sys2Proof.Machine

/-- `SET_CURSOR(P, C)`: `seq <- cursor(P, C); RESP <- ACK` (R87). -/
def execSetCursor (p c : Byte) (s : State) : Result := .next (s.load (cursor s.cfg p c) .ack)

/-- `SEND_BUFFER`: the eight pages of the buffer as it stands now; `RESP <- ACK` (R88, 20_memory.md R48). -/
def execSendBuffer (s : State) : Result := .next (s.load (sendBufferActions s.cfg s.fb.slice) .ack)

end Sys2Proof.Machine
end

