-- ==== Sys2Proof/Machine/Wire.lean ====
section
/-! DEFINITION. The wire commands (30_encoding.md R59). The block gives a wire command no effect but its being sent
(R60): where the sequencer comes to the write of a command transaction, the command's bytes become the
write in flight (10_state.md R22). The transaction's other actions stand around it in `seq`
(41_framer.md R72; log entry 11). -/

namespace Sys2Proof.Machine

/-- Send one wire command: `PENDING <- Write(bytes)` (R22, R61). -/
def sendWire (i : Instr) (s : State) : Result := startWrite i.wireBytes s

/-- W1, "system reset". -/
def execW1SystemReset (s : State) : Result := sendWire .w1SystemReset s

/-- W2, "scroll-line=0". -/
def execW2ScrollLine0 (s : State) : Result := sendWire .w2ScrollLine0 s

/-- W3, "COM direction (reversed/flipped scan)". -/
def execW3ComDirectionReversed (s : State) : Result := sendWire .w3ComDirectionReversed s

/-- W4, "segment direction (normal)". -/
def execW4SegmentDirectionNormal (s : State) : Result := sendWire .w4SegmentDirectionNormal s

/-- W5, "all-pixel-normal mode". -/
def execW5AllPixelNormal (s : State) : Result := sendWire .w5AllPixelNormal s

/-- W6, "inverse-display". -/
def execW6InverseDisplay (f : BitVec 1) (s : State) : Result := sendWire (.w6InverseDisplay f) s

/-- W7, "LCD bias ratio selector". -/
def execW7LcdBias (s : State) : Result := sendWire .w7LcdBias s

/-- W8, "power control"; the byte 0x27 is normative and no more is claimed of it (R60). -/
def execW8PowerControl (s : State) : Result := sendWire .w8PowerControl s

/-- W9, "booster ratio (2-byte command)". -/
def execW9BoosterRatio (s : State) : Result := sendWire .w9BoosterRatio s

/-- W10, "Vlcd resistor ratio". -/
def execW10VlcdResistorRatio (s : State) : Result := sendWire .w10VlcdResistorRatio s

/-- W11, "contrast". -/
def execW11Contrast (c6 : BitVec 6) (s : State) : Result := sendWire (.w11Contrast c6) s

/-- W12, "cursor-update-mode reset". -/
def execW12CursorUpdateModeReset (s : State) : Result := sendWire .w12CursorUpdateModeReset s

/-- W13, "display-enable=on". -/
def execW13DisplayOn (s : State) : Result := sendWire .w13DisplayOn s

/-- W14, the page-address command. -/
def execW14PageAddress (p4 : BitVec 4) (s : State) : Result := sendWire (.w14PageAddress p4) s

/-- W15, the low nibble of the column. -/
def execW15ColumnLow (clo : BitVec 4) (s : State) : Result := sendWire (.w15ColumnLow clo) s

/-- W16, the high nibble of the column. -/
def execW16ColumnHigh (chi : BitVec 4) (s : State) : Result := sendWire (.w16ColumnHigh chi) s

end Sys2Proof.Machine
end

