-- ==== Sys2Proof/Machine/Dispatch.lean ====
section
/-! DEFINITION. One arm per operation: host operations at accept time, reserved codes, wire commands. -/

namespace Sys2Proof.Machine

def exec (i : Instr) (s : State) : Host.Outcome State Fault Refusal :=
  match i with
  | .init => Sys2Proof.Machine.execInit s
  | .setContrast v => Sys2Proof.Machine.execSetContrast v s
  | .setInverse f => Sys2Proof.Machine.execSetInverse f s
  | .setCursor p c => Sys2Proof.Machine.execSetCursor p c s
  | .sendBuffer => Sys2Proof.Machine.execSendBuffer s
  | .fbWrite off d => Sys2Proof.Machine.execFbWrite off d s
  | .fbRead off => Sys2Proof.Machine.execFbRead off s
  | .illegalOp0 rest => Sys2Proof.Machine.execIllegalOp0 rest s
  | .illegalOp8 rest => Sys2Proof.Machine.execIllegalOp8 rest s
  | .illegalOp9 rest => Sys2Proof.Machine.execIllegalOp9 rest s
  | .illegalOpA rest => Sys2Proof.Machine.execIllegalOpA rest s
  | .illegalOpB rest => Sys2Proof.Machine.execIllegalOpB rest s
  | .illegalOpC rest => Sys2Proof.Machine.execIllegalOpC rest s
  | .illegalOpD rest => Sys2Proof.Machine.execIllegalOpD rest s
  | .illegalOpE rest => Sys2Proof.Machine.execIllegalOpE rest s
  | .illegalOpF rest => Sys2Proof.Machine.execIllegalOpF rest s
  | .w1SystemReset => Sys2Proof.Machine.execW1SystemReset s
  | .w2ScrollLine0 => Sys2Proof.Machine.execW2ScrollLine0 s
  | .w3ComDirectionReversed => Sys2Proof.Machine.execW3ComDirectionReversed s
  | .w4SegmentDirectionNormal => Sys2Proof.Machine.execW4SegmentDirectionNormal s
  | .w5AllPixelNormal => Sys2Proof.Machine.execW5AllPixelNormal s
  | .w6InverseDisplay f => Sys2Proof.Machine.execW6InverseDisplay f s
  | .w7LcdBias => Sys2Proof.Machine.execW7LcdBias s
  | .w8PowerControl => Sys2Proof.Machine.execW8PowerControl s
  | .w9BoosterRatio => Sys2Proof.Machine.execW9BoosterRatio s
  | .w10VlcdResistorRatio => Sys2Proof.Machine.execW10VlcdResistorRatio s
  | .w11Contrast c6 => Sys2Proof.Machine.execW11Contrast c6 s
  | .w12CursorUpdateModeReset => Sys2Proof.Machine.execW12CursorUpdateModeReset s
  | .w13DisplayOn => Sys2Proof.Machine.execW13DisplayOn s
  | .w14PageAddress p4 => Sys2Proof.Machine.execW14PageAddress p4 s
  | .w15ColumnLow clo => Sys2Proof.Machine.execW15ColumnLow clo s
  | .w16ColumnHigh chi => Sys2Proof.Machine.execW16ColumnHigh chi s

end Sys2Proof.Machine
end

