-- ==== Sys2Proof/Machine/Sequencer.lean ====
section
/-! DEFINITION. One step of the block: the sequencer (10_state.md R23), the host port (R26, R27), the quiescent
FAULTED state (R28), and the placing of an operation where the next step finds it. -/

namespace Sys2Proof.Machine

/-- The sequencer executes an action it has taken off `seq` (R22, R23). The write of a command transaction is
the wire command its bytes encode; any other write is the plain action (log entry 11). -/
def runAction (a : Action) (s : State) : Result :=
  match a with
  | .busWrite bs =>
    match decodeTransaction bs with
    | .ok i => exec i s
    | .error _ => doAction (.busWrite bs) s
  | a => doAction a s

/-- `step_sequencer` (R23), or the completion of the operation when `seq` is empty (R27; log entry 17). -/
def sequencerStep (s : State) : Result :=
  match s.seq with
  | [] => .next s.complete
  | a :: rest => runAction a { s with seq := rest }

/-- `accept(op)` with `decode(op)` (R26, 30_encoding.md R57; log entry 17). -/
def acceptWord (w : Word) (later : List Word) (s : State) : Result :=
  match decodeHost w with
  | .ok i => exec i (s.accepted w later)
  | .error r => .next ((s.accepted w later).raiseFault (rejectFault r) w)

/-- A step of the idle block: the word the host presents is accepted in READY, and otherwise it waits
(R26). A step that does nothing leaves the state as it is (log entry 1). -/
def idleStep (s : State) : Result :=
  match s.hostWords with
  | [] => .next s
  | w :: later => if s.sess = .ready then acceptWord w later s else .next s

/-- A step of the block that is working on an operation (R23, R24, R25). -/
def busyStep (s : State) : Result :=
  match s.pending with
  | .none => sequencerStep s
  | .write bs => transportStep bs s
  | .delay ms => timerStep ms s

/-- A step of the block out of reset: "When `SESS = FAULTED` the block takes no further step" (R28). -/
def blockStep (s : State) : Result :=
  if s.sess = .faulted then .next s
  else if s.busy then busyStep s
  else idleStep s

/-- A step of the block and its `rst_n` input, sampled first (70_reset_and_hazards.md R105; log entry 8). -/
def sampleReset (s : State) : Result :=
  match s.rstN with
  | [] => blockStep s
  | .low :: later => .next ({ s with rstN := later }.resetBlock)
  | .high :: later => blockStep { s with rstN := later }

/-- A step of a block the spec gives a meaning to (log entry 3). -/
def guardedStep (s : State) : Result :=
  match configRefusal s.cfg with
  | some r => .refused r
  | none => sampleReset s

/-! ### Placing an operation where the next step finds it -/

/-- The block idle and ready, out of reset, with `w` presented on the host port. -/
def State.presentWord (w : Word) (s : State) : State :=
  { s with
    sess := .ready
    busy := false
    seq := []
    pending := .none
    hostWords := w :: s.hostWords
    rstN := [] }

/-- The block working, out of reset, with the write of `bs` as its next action. -/
def State.presentWrite (bs : List Byte) (s : State) : State :=
  { s with
    sess := if s.sess = .faulted then .ready else s.sess
    busy := true
    seq := .busWrite bs :: s.seq
    pending := .none
    rstN := [] }

/-- A row of more than 16 bits goes to the host port, the others to the sequencer (log entry 12). -/
def State.present (nbits w : Nat) (s : State) : State :=
  if tableRowIsHost nbits then s.presentWord (BitVec.ofNat 32 (tableBits nbits w))
  else s.presentWrite (tableWireBytes nbits w)

end Sys2Proof.Machine
end

