-- ==== Sys2Proof/Machine/Step.lean ====
section
/-! DEFINITION. The step, and the placing of one operation for it. -/

namespace Sys2Proof.Machine

/-- One step of the block and of its environment. -/
def step (s : State) : Host.Outcome State Fault Refusal := guardedStep s

/-- `s` with the operation whose bits are `w` placed where the next step takes its operation (log entry 12).
A configuration that the spec refuses still runs nothing. -/
def State.withFetchWord (s : State) (nbits w : Nat) : State := s.present nbits w

end Sys2Proof.Machine
end

