-- ==== Sys2Proof/Machine/Assembler.lean ====
section
/-! DEFINITION. The host's notation for operation words (30_encoding.md R63) and its pseudo-operations (R64,
40_buffer_access.md R68, R69), as structured lines (log entry 22). The block never sees these. -/

namespace Sys2Proof.Machine

/-- One assembler line of R63, with its operands as numbers. -/
inductive AsmLine where
  | init
  | setContrast (v : Nat)
  | setInv (f : Nat)
  | setCur (p c : Nat)
  | sendBuf
  | fbWr (off d : Nat)
  | fbRd (off : Nat)
  | word (w : Nat)
deriving DecidableEq, Repr

/-- The word of a line; "The assembler refuses an operand outside its field" (R63). -/
def assemble : AsmLine → Option Word
  | .init => some 0x10000000
  | .setContrast v => if v ≤ 65535 then some (0x20000000#32 ||| BitVec.ofNat 32 v) else none
  | .setInv f => if f ≤ 1 then some (0x30000000#32 ||| BitVec.ofNat 32 f) else none
  | .setCur p c =>
    if p ≤ 255 ∧ c ≤ 255 then some (0x40000000#32 ||| (BitVec.ofNat 32 p <<< 8) ||| BitVec.ofNat 32 c) else none
  | .sendBuf => some 0x50000000
  | .fbWr off d =>
    if off ≤ 65535 ∧ d ≤ 255 then some (0x60000000#32 ||| (BitVec.ofNat 32 off <<< 8) ||| BitVec.ofNat 32 d) else none
  | .fbRd off => if off ≤ 65535 then some (0x70000000#32 ||| (BitVec.ofNat 32 off <<< 8)) else none
  | .word w => if w < 2 ^ 32 then some (BitVec.ofNat 32 w) else none

/-- The pseudo-operations of R64. -/
inductive Pseudo where
  | pixGet (x y : Nat)
  | pixSet (x y : Nat) (v : BitVec 1)
  | fill (d : Nat)
  | clear
  | show
deriving DecidableEq, Repr

/-- `FBWR i, d` for `i = 0, 1, ..., 1023` (R64). -/
def fillLines (d : Nat) : List AsmLine := (List.range fbSize).map fun i => .fbWr i d

/-- The lines a pseudo-operation issues at once; the assembler refuses coordinates outside the grid (R64, R68). -/
def Pseudo.firstLines : Pseudo → Option (List AsmLine)
  | .pixGet x y | .pixSet x y _ => if pixInRange x y then some [.fbRd (pixOffset x y)] else none
  | .fill d => some (fillLines d)
  | .clear => some (fillLines 0)
  | .show => some [.sendBuf]

/-- The lines it issues once the read has returned `b`: the write back of `PIXSET` (R64, R69). -/
def Pseudo.linesAfterRead (b : Byte) : Pseudo → List AsmLine
  | .pixSet x y v => [.fbWr (pixOffset x y) (byteWithBit b (pixBit x y) v).toNat]
  | .pixGet _ _ | .fill _ | .clear | .show => []

/-- The bit the host takes from the byte `PIXGET` returned (R64). -/
def pixGetValue (x y : Nat) (b : Byte) : BitVec 1 := byteBit b (pixBit x y)

end Sys2Proof.Machine
end

