-- ==== Sys2Proof/Machine/Flags.lean ====
section
/-! DEFINITION. The only status bits of the block: `STATUS` (10_state.md R16, R19) and the codes it shows. -/

namespace Sys2Proof.Machine

/-- The two bits of `SESS` (R18). -/
def Sess.code : Sess → BitVec 2
  | .uninit => 0
  | .config => 1
  | .ready => 2
  | .faulted => 3

/-- The four bits of `FAULT_CODE` (60_exceptions.md R90). -/
def FaultCode.code : FaultCode → BitVec 4
  | .none => 0
  | .transportFault => 1
  | .illegalOp => 2
  | .reservedBits => 3
  | .fbRange => 4

/-- The bit of `BUSY`. -/
def busyBit (busy : Bool) : BitVec 1 := if busy then 1 else 0

/-- `STATUS = zext_8(FAULT_CODE << 4 | 0 << 3 | BUSY << 2 | SESS)` (R19). -/
def State.status (s : State) : BitVec 8 :=
  (s.faultCode.code.setWidth 8 <<< 4) ||| (0#8 <<< 3) ||| ((busyBit s.busy).setWidth 8 <<< 2)
    ||| s.sess.code.setWidth 8

/-- What the host reads of `STATUS` and `FAULT_INFO`: no side effect, in every state (R19). -/
def State.hostView (s : State) : BitVec 8 × Word := (s.status, s.faultInfo)

end Sys2Proof.Machine
end

