-- ==== Sys2Proof/Safety.lean ====
section
/-! DEFINITION. What a safe run of the block keeps: the invariant of its state, and the terms statements use. -/

namespace Sys2Proof.Machine

/-! ### The session's order (10_state.md R20) -/

/-- A change of `SESS` that an action may make. Setting `UNINIT` in `UNINIT`, as the automatic
initialization does, changes nothing (R20, 42_session.md R82). -/
def sessStepAllowed : Sess → Sess → Bool
  | .uninit, .uninit => true
  | .uninit, .config => true
  | .config, .ready => true
  | .ready, .uninit => true
  | _, _ => false

/-- The remaining actions move `SESS` by allowed changes and leave it `READY`. -/
def sessionPath : Sess → List Action → Bool
  | x, [] => x == .ready
  | x, .setSess y :: rest => sessStepAllowed x y && sessionPath y rest
  | x, .lineConfig _ _ :: rest => sessionPath x rest
  | x, .lineSet _ _ :: rest => sessionPath x rest
  | x, .busConfig :: rest => sessionPath x rest
  | x, .busWrite _ :: rest => sessionPath x rest
  | x, .wait _ :: rest => sessionPath x rest

/-! ### Transactions (41_framer.md, 20_memory.md R47, 30_encoding.md R59, R62) -/

/-- The session state an action sets, if it sets one. -/
def Action.sess? : Action → Option Sess
  | .setSess x => some x
  | .lineConfig _ _ | .lineSet _ _ | .busConfig | .busWrite _ | .wait _ => none

/-- The session state that an action list leaves, from `x`. -/
def sessAfter (x : Sess) (as : List Action) : Sess := (as.filterMap Action.sess?).getLastD x

/-- `bs` is exactly one wire command of R59. -/
def oneWireCommand (bs : List Byte) : Bool :=
  match decodeTransaction bs with
  | .ok _ => true
  | .error _ => false

/-- A write the block may make: inside the chip-select bracket when there is one; one wire command with the
command/data line at the command level, or one page of bytes with it at the data level (R59, R62, R72, R73). -/
def writeAllowed (c : Config) (asserted : Bool) (cd : PinLevel) (bs : List Byte) : Bool :=
  (!c.hasCs || asserted)
    && ((decide (cd = .driven c.cdCommand) && oneWireCommand bs)
      || (decide (cd = .driven c.cdData) && decide (bs.length = width)))

/-- The actions are whole transactions from here on: chip-select brackets close, nothing but the one write
happens inside a bracket, and every write has a bus configuration of its own before it (R47, R76, R78).
The arguments say whether the bus has been configured since the last write, whether chip-select is
asserted, and what the command/data line was last driven to. -/
def framedFrom (c : Config) : Bool → Bool → PinLevel → List Action → Bool
  | _, asserted, _, [] => !asserted
  | k, asserted, _, .lineConfig .cd v :: rest => !asserted && framedFrom c k asserted (.driven v) rest
  | k, asserted, _, .lineSet .cd v :: rest => !asserted && framedFrom c k asserted (.driven v) rest
  | k, asserted, cd, .lineConfig .cs v :: rest => !asserted && framedFrom c k (v == c.csAssert) cd rest
  | k, asserted, cd, .lineSet .cs v :: rest =>
    !(asserted && v == c.csAssert) && framedFrom c k (v == c.csAssert) cd rest
  | k, asserted, cd, .lineConfig .rst _ :: rest => !asserted && framedFrom c k asserted cd rest
  | k, asserted, cd, .lineSet .rst _ :: rest => !asserted && framedFrom c k asserted cd rest
  | _, asserted, cd, .busConfig :: rest => !asserted && framedFrom c true asserted cd rest
  | k, asserted, cd, .busWrite bs :: rest =>
    k && writeAllowed c asserted cd bs && framedFrom c false asserted cd rest
  | k, asserted, cd, .wait _ :: rest => !asserted && framedFrom c k asserted cd rest
  | k, asserted, cd, .setSess _ :: rest => !asserted && framedFrom c k asserted cd rest

/-- Whether chip-select is asserted (00_scope.md R13). -/
def State.csAsserted (s : State) : Bool := decide (s.lvlCs = some (.driven s.cfg.csAssert))

/-- What one event makes of "the bus has been configured since the last write" (41_framer.md R76). -/
def configuredAfter (k : Bool) : Event → Bool
  | .busConfig _ _ _ => true
  | .write _ | .writeFault _ => false
  | .lineConfig _ _ | .lineSet _ _ | .delay _ => k

/-- The bus has been configured since the last write of the trace. -/
def busConfigured (trace : List Event) : Bool := trace.foldl configuredAfter false

/-- A write is in flight. -/
def Pending.isWrite : Pending → Bool
  | .write _ => true
  | .none | .delay _ => false

/-- An event the block may emit (30_encoding.md R59, R62; 41_framer.md R74, R76; 70_reset_and_hazards.md R113). -/
def eventAllowed (c : Config) : Event → Bool
  | .lineConfig l _ | .lineSet l _ => hasLine c l
  | .busConfig rate cpol cpha => decide (rate = c.sclkHz ∧ cpol = c.cpol ∧ cpha = c.cpha)
  | .write bs | .writeFault bs => oneWireCommand bs || decide (bs.length = width)
  | .delay ms => decide (100 ≤ ms)

/-! ### The invariant -/

/-- What every step of the block keeps. -/
structure State.Inv (s : State) : Prop where
  /-- The configuration is one the spec admits (R8, R75, R113). -/
  configAdmitted : configRefusal s.cfg = none
  /-- "`FB` is exactly 1024 bytes at every moment" (20_memory.md R33). -/
  bufferWhole : s.fb.wf
  /-- `CLOCK_RATE` is `SCLK_HZ` (10_state.md R18). -/
  clockFixed : s.clockRate = s.cfg.sclkHz
  /-- `LVL_RST` is absent exactly when the line is (R18). -/
  rstPresence : s.lvlRst.isSome = s.cfg.hasRst
  /-- `LVL_CS` is absent exactly when the line is (R18). -/
  csPresence : s.lvlCs.isSome = s.cfg.hasCs
  /-- `SESS` is `FAULTED` exactly when a fault is recorded (60_exceptions.md R93, R96). -/
  faultedIffRecorded : s.sess = .faulted ↔ s.faultCode ≠ .none
  /-- `FAULT_INFO` is 0 with no fault recorded (60_exceptions.md R90). -/
  infoOnlyOfFault : s.faultCode = .none → s.faultInfo = 0
  /-- The idle block has nothing left to do (10_state.md R27). -/
  idleEmpty : s.busy = false → s.seq = [] ∧ s.pending = .none
  /-- The idle block is ready or faulted (R20, R109). -/
  idleSettled : s.busy = false → s.sess = .ready ∨ s.sess = .faulted
  /-- Between operations chip-select is deasserted (41_framer.md R72). -/
  idleDeasserted : s.busy = false → s.sess = .ready → s.csAsserted = false
  /-- A faulted block is not busy (60_exceptions.md R93). -/
  busyNotFaulted : s.busy = true → s.sess ≠ .faulted
  /-- The operation in progress ends in READY by the transitions of R20. -/
  sessionOnPath : s.busy = true → sessionPath s.sess s.seq = true
  /-- What is left of the operation is whole transactions. -/
  framed : s.busy = true →
    framedFrom s.cfg (busConfigured s.trace && !s.pending.isWrite) s.csAsserted s.lvlCd s.seq = true
  /-- A write in flight is one the block may make, on a configured bus. -/
  pendingWrite : ∀ bs, s.pending = .write bs →
    busConfigured s.trace = true ∧ writeAllowed s.cfg s.csAsserted s.lvlCd bs = true
  /-- A delay in flight is the reset hold, outside every transaction (42_session.md R79). -/
  pendingDelay : ∀ ms, s.pending = .delay ms → ms = s.cfg.resetHoldMs ∧ s.csAsserted = false
  /-- The only delay to come is the reset hold. -/
  waitsAreResetHold : ∀ ms, Action.wait ms ∈ s.seq → ms = s.cfg.resetHoldMs
  /-- "Actions on a line whose `HAS_` parameter is false are never generated" (R22). -/
  linesPresent : ∀ a ∈ s.seq, ∀ l, a.line? = some l → hasLine s.cfg l = true
  /-- The operation that did not come from the host is the automatic initialization (R18). -/
  automaticOp : s.fromHost = false → s.curOp = autoInitOp
  /-- The automatic initialization sets no response (R27, 70_reset_and_hazards.md R107). -/
  automaticResp : s.fromHost = false → s.resp = .none
  /-- An operation of the host that got past decode has its response loaded (R26). -/
  hostResp : s.busy = true → s.fromHost = true → s.resp ≠ .none
  /-- Every event of the trace is one the block may emit. -/
  traceAllowed : ∀ e ∈ s.trace, eventAllowed s.cfg e = true

/-! ### Terms for statements about whole operations -/

/-- The events of an action when every write completes (10_state.md R22, R24, R25). -/
def Action.events (c : Config) : Action → List Event
  | .lineConfig l v => [.lineConfig l v]
  | .lineSet l v => [.lineSet l v]
  | .busConfig => [.busConfig c.sclkHz c.cpol c.cpha]
  | .busWrite bs => [.write bs]
  | .wait ms => [.delay ms]
  | .setSess _ => []

/-- The events of an action list when every write completes. -/
def eventsOf (c : Config) (as : List Action) : List Event := as.flatMap (Action.events c)

/-- The byte list of an action's write, if it is one. -/
def Action.write? : Action → Option (List Byte)
  | .busWrite bs => some bs
  | .lineConfig _ _ | .lineSet _ _ | .busConfig | .wait _ | .setSess _ => none

/-- The byte lists that an action list writes, in order. -/
def writesOf (as : List Action) : List (List Byte) := as.filterMap Action.write?

/-- The actions of one whole transaction, written out (41_framer.md R71, R72, R73, R74). -/
def transactionActions (c : Config) (cd : Level) (bs : List Byte) : List Action :=
  if c.hasCs then
    [.busConfig, .lineSet .cs c.csActiveLevel.flip, .lineSet .cd cd, .lineSet .cs c.csActiveLevel, .busWrite bs,
      .lineSet .cs c.csActiveLevel.flip]
  else [.busConfig, .lineSet .cd cd, .busWrite bs]

/-- The actions of one command transaction (R72). -/
def commandActions (c : Config) (bs : List Byte) : List Action := transactionActions c c.cdCommandLevel bs

/-- The actions of one data transaction (R73). -/
def dataActions (c : Config) (bs : List Byte) : List Action := transactionActions c c.cdCommandLevel.flip bs

/-- The events of one whole transaction, written out (R71, R72, R73, R74). -/
def transactionEvents (c : Config) (cd : Level) (bs : List Byte) : List Event :=
  if c.hasCs then
    [.busConfig c.sclkHz c.cpol c.cpha, .lineSet .cs c.csActiveLevel.flip, .lineSet .cd cd, .lineSet .cs c.csActiveLevel,
      .write bs, .lineSet .cs c.csActiveLevel.flip]
  else [.busConfig c.sclkHz c.cpol c.cpha, .lineSet .cd cd, .write bs]

/-- The events of one command transaction (R72). -/
def commandEvents (c : Config) (bs : List Byte) : List Event := transactionEvents c c.cdCommandLevel bs

/-- The events of one data transaction (R73). -/
def dataEvents (c : Config) (bs : List Byte) : List Event := transactionEvents c c.cdCommandLevel.flip bs

/-- `k` steps of the machine behind the host's interface. -/
def runSteps (k : Nat) (s : State) : Result := Host.Core.run Sys2Proof.core k s

/-- Some number of steps leads from `s` to `t`, with no stop on the way. -/
def State.LeadsTo (s t : State) : Prop := ∃ k, runSteps k s = .next t

/-- The sixteen transactions of the initialization, in order (42_session.md R80). -/
def initializationRows : List (List Byte) :=
  [[0xE2], [0x40], [0xC8], [0xA0], [0xA4], [0xA6], [0xA2], [0x27], [0xF8, 0x00], [0x23], [0x81, 0x20], [0xEE], [0xAF],
    [0xB0], [0x00], [0x10]]

/-- The events of the reset pulse (42_session.md R79). -/
def pulseEvents (c : Config) : List Event :=
  if c.hasRst then [.lineSet .rst .low, .delay c.resetHoldMs, .lineSet .rst .high] else []

/-- The events of a whole initialization: the reset pulse, then the sixteen command transactions (R79, R80, R82). -/
def initEvents (c : Config) : List Event := pulseEvents c ++ initializationRows.flatMap (commandEvents c)

/-- The events of page `p` of a transfer of the bytes `bs` (43_transfer.md R88). -/
def pageEvents (c : Config) (p : Nat) (bs : List Byte) : List Event :=
  commandEvents c [BitVec.ofNat 8 (0xB0 + p)] ++ commandEvents c [0x00] ++ commandEvents c [0x10] ++ dataEvents c bs

/-- The line configurations of the present lines, in the order 70_reset_and_hazards.md R107 lists them. -/
def lineConfigs (c : Config) : List Action :=
  [.lineConfig .cd c.cdInitLevel] ++ (if c.hasRst then [.lineConfig .rst .high] else [])
    ++ (if c.hasCs then [.lineConfig .cs c.csActiveLevel.flip] else [])

/-- The state that 60_exceptions.md R93 leaves, assignment by assignment. -/
def State.withFault (code : FaultCode) (info : Word) (s : State) : State :=
  { s with
    faultCode := code
    faultInfo := info
    sess := .faulted
    seq := []
    pending := .none
    busy := false
    responses := if s.fromHost then s.responses ++ [.fault code] else s.responses }

/-- The state in which `decode` starts on an accepted word (10_state.md R26), assignment by assignment. -/
def State.withRequest (w : Word) (later : List Word) (s : State) : State :=
  { s with curOp := w, busy := true, resp := .none, fromHost := true, hostWords := later }

/-- Every piece of the block's state has its value after reset (70_reset_and_hazards.md R106). -/
structure State.AtReset (s : State) : Prop where
  buffer : s.fb.wf
  uninit : s.sess = .uninit
  busy : s.busy = true
  noFault : s.faultCode = .none
  noInfo : s.faultInfo = 0
  autoOp : s.curOp = 0x10000000
  automatic : s.fromHost = false
  construction : ∃ o, s.seq = Machine.construction s.cfg o
  nonePending : s.pending = .none
  noResp : s.resp = .none
  rst : s.lvlRst = if s.cfg.hasRst then some .unconf else none
  cs : s.lvlCs = if s.cfg.hasCs then some .unconf else none
  cd : s.lvlCd = .unconf
  clock : s.clockRate = s.cfg.sclkHz
  status : s.status = 0x04

/-- The block waits for a request: idle, ready, out of reset for good, with a configuration the spec admits. -/
structure State.Waiting (s : State) : Prop where
  configAdmitted : configRefusal s.cfg = none
  ready : s.sess = .ready
  idle : s.busy = false
  empty : s.seq = []
  nonePending : s.pending = .none
  released : s.rstN = []

/-- The block runs its current operation: busy, nothing in flight, out of reset for good. -/
structure State.Working (s : State) : Prop where
  configAdmitted : configRefusal s.cfg = none
  notFaulted : s.sess ≠ .faulted
  busy : s.busy = true
  nonePending : s.pending = .none
  released : s.rstN = []

end Sys2Proof.Machine
end

