-- ==== Sys2Proof/Certificates/Slice0/Obligations.lean ====
section
/-! DEFINITION. The statements for the provers, one `Prop` each, from the numbered rules of spec/. -/

open Sys2Proof Sys2Proof.Machine

/-- For every operation of the opcode table, with every operand at every value its encoding admits, the decoder reads
the operation from its encoding: no bit of a host word or of a wire command is dropped. (R53, R54, R56, R59, R61) -/
def Obligations.DecodeOfEncodeIsIdentity : Prop :=
  ∀ i : Instr, i.wellFormed = true → decode (encode i) = .ok i

/-- Whatever 32-bit word or byte list the decoder reads as an operation is exactly that operation's encoding, and the
operation is well formed: no word and no byte list has a second spelling, and no reserved bit is ignored. (R53, R54,
R57, R59, R61) -/
def Obligations.EncodeOfDecodeIsIdentity : Prop :=
  ∀ (x : Code) (i : Instr), decode x = .ok i → encode i = x ∧ i.wellFormed = true

/-- A waiting block takes the word w presented. If w[31:28] is 0 or at least 8 the step records ILLEGAL_OP; otherwise,
with the must-be-zero mask of the operation code, a set masked bit records RESERVED_BITS; otherwise an offset
w[23:8] of at least 1024 with code 6 or 7 records FB_RANGE. Each time the state is the requested state with exactly
the assignments of the fault entry (no event, FB kept, seq empty). A word that passes all checks is the encoding of
a well-formed operation, and the step is that operation's meaning at accept time. That acceptance and decoding are
one step is the model's choice (log entry 17). (R57) -/
def Obligations.DecodeChecksInOrder : Prop :=
  ∀ (s : State) (w : Word) (later : List Word), s.Waiting → s.hostWords = w :: later →
    ((w.toNat / 2 ^ 28 = 0 ∨ 8 ≤ w.toNat / 2 ^ 28) →
      step s = .next ((s.withRequest w later).withFault .illegalOp w)) ∧
    ∀ mask : Word,
      (w.toNat / 2 ^ 28, mask) ∈ [(1, 0x0FFFFFFF#32), (2, 0x0FFF0000#32), (3, 0x0FFFFFFE#32), (4, 0x0FFF0000#32),
        (5, 0x0FFFFFFF#32), (6, 0x0F000000#32), (7, 0x0F0000FF#32)] →
      (w &&& mask ≠ 0 → step s = .next ((s.withRequest w later).withFault .reservedBits w)) ∧
      (w &&& mask = 0 → 6 ≤ w.toNat / 2 ^ 28 → 1024 ≤ w.toNat / 2 ^ 8 % 2 ^ 16 →
        step s = .next ((s.withRequest w later).withFault .fbRange w)) ∧
      (w &&& mask = 0 → (w.toNat / 2 ^ 28 < 6 ∨ w.toNat / 2 ^ 8 % 2 ^ 16 < 1024) →
        ∃ i : Instr, i.wellFormed = true ∧ encode i = .host w ∧ step s = exec i (s.withRequest w later))

/-- Words written from the field tables: one of each format, the two offsets at the end of the buffer, a reserved code,
and the two rejected kinds. (R53, R54, R57) -/
def Obligations.SpecWordsDecode : Prop :=
  decode (.host 0x10000000) = .ok .init ∧
  decode (.host 0x2000012C) = .ok (.setContrast 300) ∧
  decode (.host 0x30000001) = .ok (.setInverse 1) ∧
  decode (.host 0x400003C8) = .ok (.setCursor 3 200) ∧
  decode (.host 0x50000000) = .ok .sendBuffer ∧
  decode (.host 0x6003FF55) = .ok (.fbWrite 1023 0x55) ∧
  decode (.host 0x70008500) = .ok (.fbRead 133) ∧
  decode (.host 0x80000001) = .ok (.illegalOp8 1) ∧
  decode (.host 0x00000000) = .ok (.illegalOp0 0) ∧
  decode (.host 0x30000003) = .error (.word .reservedBits) ∧
  decode (.host 0x70000001) = .error (.word .reservedBits) ∧
  decode (.host 0x61040000) = .error (.word .reservedBits) ∧
  decode (.host 0x60040000) = .error (.word .fbRange)

/-- Byte lists written from the wire command table: parameterless commands, the two-byte commands, the ends of the
nibble commands, and byte lists that are not one command. (R59, R61) -/
def Obligations.SpecWireBytesDecode : Prop :=
  decode (.wire [0xE2]) = .ok .w1SystemReset ∧
  decode (.wire [0xA7]) = .ok (.w6InverseDisplay 1) ∧
  decode (.wire [0xA2]) = .ok .w7LcdBias ∧
  decode (.wire [0xF8, 0x00]) = .ok .w9BoosterRatio ∧
  decode (.wire [0x81, 0x3F]) = .ok (.w11Contrast 0x3F) ∧
  decode (.wire [0xBF]) = .ok (.w14PageAddress 15) ∧
  decode (.wire [0x00]) = .ok (.w15ColumnLow 0) ∧
  decode (.wire [0x1C]) = .ok (.w16ColumnHigh 12) ∧
  decode (.wire [0x81, 0x40]) = .error (.wire .parameterOutOfForm) ∧
  decode (.wire [0x81]) = .error (.wire .missingParameter) ∧
  decode (.wire [0xE2, 0x40]) = .error (.wire .bytesAfterCommand)

/-- When the word presented to a waiting block decodes to i, the step is exec of i at the state with the request taken
(CUR_OP, BUSY, RESP, origin, the word off the host's list). When the word is rejected the step is the fault of that
rejection. When the head of a working block's seq writes bytes that decode to the wire command i, the step is exec
of i at the state with that action taken off seq. That a wire row's operation runs where its bytes are written is
the model's reading (log entry 11), and so is taking acceptance and decoding as one step (log entry 17). (R22, R23,
R26, R57, R61) -/
def Obligations.StepRunsTheDecodedOperation : Prop :=
  (∀ (s : State) (w : Word) (later : List Word), s.Waiting → s.hostWords = w :: later →
    (∀ i : Instr, decode (.host w) = .ok i → step s = exec i (s.withRequest w later)) ∧
    (decode (.host w) = .error (.word .reservedBits) →
      step s = .next ((s.withRequest w later).withFault .reservedBits w)) ∧
    (decode (.host w) = .error (.word .fbRange) →
      step s = .next ((s.withRequest w later).withFault .fbRange w))) ∧
  (∀ (s : State) (bs : List Byte) (rest : List Action) (i : Instr), s.Working → s.seq = .busWrite bs :: rest →
    decode (.wire bs) = .ok i → step s = exec i { s with seq := rest })

/-- If a block whose reset input is released for good steps to t, then the same block with one high sample in front of
any further samples steps to t with those further samples left. How rst_n is sampled is the model's choice (log
entry 8). (R105) -/
def Obligations.RstHighLeavesTheStepAsItIs : Prop :=
  ∀ (s t : State) (later : List Level), s.rstN = [] → step s = .next t →
    step { s with rstN := .high :: later } = .next { t with rstN := later }

/-- While BUSY = 1 or SESS is not READY, no step takes a word from the host's list. An idle READY block takes the first
word: the next state has CUR_OP = w, the word gone from the list, and either BUSY = 1 with SESS READY and a response
loaded, or a fault recorded with that word; nothing more is taken. That the requests are a list is the model's
choice (log entry 6), and so is taking acceptance and decoding as one step (log entry 17). (R26) -/
def Obligations.HostPortAcceptsOnlyWhenIdleAndReady : Prop :=
  (∀ s t : State, step s = .next t → (s.busy = true ∨ s.sess ≠ .ready) → t.hostWords = s.hostWords) ∧
  (∀ (s : State) (w : Word) (later : List Word), s.Waiting → s.hostWords = w :: later →
    ∃ t : State, step s = .next t ∧ t.curOp = w ∧ t.fromHost = true ∧ t.hostWords = later ∧ t.trace = s.trace ∧
      ((t.busy = true ∧ t.sess = .ready ∧ t.resp ≠ .none ∧ (∃ i, decode (.host w) = .ok i)) ∨
        (t.busy = false ∧ t.sess = .faulted ∧ t.resp = .none ∧ t.faultInfo = w ∧ t.seq = [])))

/-- A working block with seq = a :: rest steps to the effect of a on the state with seq = rest. While anything is
pending, a step of a busy block leaves seq as it is, unless the write fails and the fault abandons seq. (R23) -/
def Obligations.SequencerExecutesTheHeadAction : Prop :=
  (∀ (s : State) (a : Action) (rest : List Action), s.Working → s.seq = a :: rest →
    step s = doAction a { s with seq := rest }) ∧
  (∀ s t : State, step s = .next t → s.rstN.head? ≠ some .low → s.busy = true → s.pending ≠ .none →
    t.seq = s.seq ∨ (t.sess = .faulted ∧ t.seq = []))

/-- In every working state that meets the invariant, one step on each kind of action writes the level it names and emits
its event (even when the level does not change), emits the bus configuration, puts a write or a delay in flight with
no event, or sets SESS with no event; everything else is unchanged. An action on an optional line occurs only when
the configuration has the line. (R22) -/
def Obligations.ActionsHaveExactlyTheirEffect : Prop :=
  ∀ (s : State) (rest : List Action), s.Inv → s.Working →
    (∀ v, s.seq = .lineConfig .rst v :: rest → s.cfg.hasRst = true ∧
      step s = .next { s with seq := rest, lvlRst := some (.driven v), trace := s.trace ++ [.lineConfig .rst v] }) ∧
    (∀ v, s.seq = .lineConfig .cs v :: rest → s.cfg.hasCs = true ∧
      step s = .next { s with seq := rest, lvlCs := some (.driven v), trace := s.trace ++ [.lineConfig .cs v] }) ∧
    (∀ v, s.seq = .lineConfig .cd v :: rest →
      step s = .next { s with seq := rest, lvlCd := .driven v, trace := s.trace ++ [.lineConfig .cd v] }) ∧
    (∀ v, s.seq = .lineSet .rst v :: rest → s.cfg.hasRst = true ∧
      step s = .next { s with seq := rest, lvlRst := some (.driven v), trace := s.trace ++ [.lineSet .rst v] }) ∧
    (∀ v, s.seq = .lineSet .cs v :: rest → s.cfg.hasCs = true ∧
      step s = .next { s with seq := rest, lvlCs := some (.driven v), trace := s.trace ++ [.lineSet .cs v] }) ∧
    (∀ v, s.seq = .lineSet .cd v :: rest →
      step s = .next { s with seq := rest, lvlCd := .driven v, trace := s.trace ++ [.lineSet .cd v] }) ∧
    (s.seq = .busConfig :: rest →
      step s = .next { s with seq := rest, trace := s.trace ++ [.busConfig s.cfg.sclkHz s.cfg.cpol s.cfg.cpha] }) ∧
    (∀ bs, s.seq = .busWrite bs :: rest → step s = .next { s with seq := rest, pending := .write bs }) ∧
    (∀ ms, s.seq = .wait ms :: rest → step s = .next { s with seq := rest, pending := .delay ms }) ∧
    (∀ x, s.seq = .setSess x :: rest → step s = .next { s with seq := rest, sess := x })

/-- While a write of bs is in flight in a block out of reset: the answer ok emits Write(bs) and clears PENDING; the
answer fail emits WriteFault(bs) and enters the transport fault with CUR_OP, response included when the operation
came from the host; the answer stall leaves the block as it is for ever, and so does a transport with no answer left
to come. That the answers are a list, and that an empty list is a stall, are the model's choices (log entry 7).
(R24) -/
def Obligations.TransportHasThreeOutcomes : Prop :=
  ∀ (s : State) (bs : List Byte) (more : List TransportAnswer), configRefusal s.cfg = none → s.rstN = [] →
    s.busy = true → s.sess ≠ .faulted → s.pending = .write bs →
    (s.answers = .ok :: more →
      step s = .next { s with trace := s.trace ++ [.write bs], pending := .none, answers := more }) ∧
    (s.answers = .fail :: more →
      step s = .next (State.withFault .transportFault s.curOp
        { s with trace := s.trace ++ [.writeFault bs], answers := more })) ∧
    ((s.answers = .stall :: more ∨ s.answers = []) → ∀ k : Nat, runSteps k s = .next s)

/-- While a delay of ms milliseconds is in flight in a block out of reset, the step emits Delay(ms) and clears PENDING,
and changes nothing else. That the delay ends in one step is the model's choice: time is not modelled (log entry
15). (R25, R100) -/
def Obligations.DelayTimerCompletes : Prop :=
  ∀ (s : State) (ms : Nat), configRefusal s.cfg = none → s.rstN = [] → s.busy = true → s.sess ≠ .faulted →
    s.pending = .delay ms → step s = .next { s with trace := s.trace ++ [.delay ms], pending := .none }

/-- A busy block with empty seq and nothing pending clears BUSY and, if CUR_OP came from the host, returns RESP, or ACK
when RESP is none; the automatic initialization returns nothing. Any step that returns a response is such a
completion or the entry of a fault. That completion is one step of its own is the model's reading (log entry 17),
and so is the bit that holds whether CUR_OP came from the host (log entry 9). (R27) -/
def Obligations.ResponseComesLast : Prop :=
  (∀ s : State, s.Working → s.seq = [] →
    (s.fromHost = false → step s = .next { s with busy := false }) ∧
    (s.fromHost = true → (s.resp = .none ∨ s.resp = .ack) →
      step s = .next { s with busy := false, responses := s.responses ++ [.ack] }) ∧
    (∀ b, s.fromHost = true → s.resp = .data b →
      step s = .next { s with busy := false, responses := s.responses ++ [.data b] })) ∧
  (∀ s t : State, step s = .next t → t.responses = s.responses ∨
    (s.busy = true ∧ s.seq = [] ∧ s.pending = .none ∧ s.fromHost = true ∧ t.busy = false ∧
      ∃ r, t.responses = s.responses ++ [r]) ∨
    (t.sess = .faulted ∧ t.responses = s.responses ++ [.fault t.faultCode]))

/-- With SESS = FAULTED, a step out of reset changes nothing but the sample of rst_n it consumes, so no request is
accepted and seq, PENDING, FB and every level are kept; a released block stays so for any number of steps; a step
with rst_n low leaves FAULTED for UNINIT. The model shows a block that takes no step as a step that changes nothing
(log entry 1), and samples rst_n at each step (log entry 8). (R28) -/
def Obligations.FaultedIsQuiescent : Prop :=
  (∀ s t : State, s.sess = .faulted → step s = .next t →
    (s.rstN.head? ≠ some .low → t = { s with rstN := s.rstN.tail }) ∧
    (s.rstN.head? = some .low → t.sess = .uninit)) ∧
  (∀ (s : State) (k : Nat), configRefusal s.cfg = none → s.sess = .faulted → s.rstN = [] → runSteps k s = .next s)

/-- From a state that meets the invariant, a step that enters FAULTED either took a word that decode faults (ILLEGAL_OP
for a word whose code is 0 or at least 8, RESERVED_BITS or FB_RANGE for a word that decode rejects for that reason;
recorded with the word, before any event or store), or failed the write in flight (TRANSPORT_FAULT recorded with
CUR_OP, the last event WriteFault of those bytes). In both cases the state differs from the one before by the
request or the event and by the listed assignments alone: no level, no byte of FB. With chip-select, it is asserted
after a transport fault (R93; 93_implementation_defined.md U18 warns that another implementation may differ). The
host's words and the transport's answers are lists by the model's choice (log entries 6 and 7), and rst_n is sampled
at each step (log entry 8). (R24, R57, R93) -/
def Obligations.FaultEntryIsExact : Prop :=
  ∀ s t : State, s.Inv → step s = .next t → s.sess ≠ .faulted → t.sess = .faulted →
    (∃ (w : Word) (later : List Word) (code : FaultCode), s.sess = .ready ∧ s.busy = false ∧
      s.hostWords = w :: later ∧
      ((code = .illegalOp ∧ (w.toNat / 2 ^ 28 = 0 ∨ 8 ≤ w.toNat / 2 ^ 28)) ∨
        (code = .reservedBits ∧ decode (.host w) = .error (.word .reservedBits)) ∨
        (code = .fbRange ∧ decode (.host w) = .error (.word .fbRange))) ∧
      t = State.withFault code w (State.withRequest w later { s with rstN := s.rstN.tail })) ∨
    (∃ (bs : List Byte) (more : List TransportAnswer), s.pending = .write bs ∧ s.answers = .fail :: more ∧
      t = State.withFault .transportFault s.curOp
        { s with rstN := s.rstN.tail, trace := s.trace ++ [.writeFault bs], answers := more } ∧
      (s.cfg.hasCs = true → t.lvlCs = some (.driven s.cfg.csActiveLevel)))

/-- In every state STATUS is 16 times the fault code plus 4 times BUSY plus the session code, bit 3 is 0, the fault code
is at most 4, and it is 0x04 at reset. The codes of SESS and FAULT_CODE are those of the tables. What the host reads
is STATUS and FAULT_INFO as they stand: reading is a function of the state and changes nothing. (R19) -/
def Obligations.StatusLayout : Prop :=
  (∀ s : State, s.status =
    BitVec.ofNat 8 (16 * s.faultCode.code.toNat + 4 * (if s.busy then 1 else 0) + s.sess.code.toNat)) ∧
  (∀ s : State, s.status.getLsbD 3 = false ∧ s.status.toNat / 16 ≤ 4) ∧
  (Sess.uninit.code = 0 ∧ Sess.config.code = 1 ∧ Sess.ready.code = 2 ∧ Sess.faulted.code = 3) ∧
  (FaultCode.none.code = 0 ∧ FaultCode.transportFault.code = 1 ∧ FaultCode.illegalOp.code = 2 ∧
    FaultCode.reservedBits.code = 3 ∧ FaultCode.fbRange.code = 4) ∧
  State.reset.status = 0x04 ∧
  (∀ s : State, s.hostView = (s.status, s.faultInfo))

/-- In every state that meets the invariant: a request is taken from the host only when STATUS shows READY and not busy,
and is taken then; when STATUS[1:0] = 3 no request is taken and STATUS does not change out of reset; a faulted block
shows 0x13, 0x23, 0x33 or 0x43 for codes 1 to 4. (R109, which the spec marks as its own inference from R107 and
R28.) The host's words are a list, and rst_n is sampled at each step, by the model's choice (log entries 6 and 8).
(R19, R26, R28, R93, R107) -/
def Obligations.StatusTellsTheHost : Prop :=
  ∀ s t : State, s.Inv → step s = .next t →
    (t.hostWords ≠ s.hostWords → s.status = 0x02) ∧
    (∀ w later, s.status = 0x02 → s.hostWords = w :: later → s.rstN.head? ≠ some .low → t.hostWords = later) ∧
    (s.status &&& 0x03 = 0x03 →
      t.hostWords = s.hostWords ∧ (s.rstN.head? ≠ some .low → t.status = s.status)) ∧
    (s.sess = .faulted →
      (s.faultCode = .transportFault ∧ s.status = 0x13) ∨ (s.faultCode = .illegalOp ∧ s.status = 0x23) ∨
      (s.faultCode = .reservedBits ∧ s.status = 0x33) ∨ (s.faultCode = .fbRange ∧ s.status = 0x43))

/-- Every step of such a block is refused by name; so is every step of a block whose clock rate is not positive (the
model's reading of the parameter's range, log entry 3). A block with an admitted configuration is never refused.
(R8, R75, R112, R113) -/
def Obligations.UnadmittedConfigurationsAreRefused : Prop :=
  (∀ s : State, s.cfg.hasCd = false → step s = .refused .noCommandDataLine) ∧
  (∀ s : State, s.cfg.hasCd = true → s.cfg.resetHoldMs < 100 → step s = .refused .resetHoldTooShort) ∧
  (∀ s : State, s.cfg.hasCd = true → 100 ≤ s.cfg.resetHoldMs → s.cfg.sclkHz = 0 →
    step s = .refused .clockRateNotPositive) ∧
  (∀ s : State, s.cfg.hasCd = true → 100 ≤ s.cfg.resetHoldMs → 0 < s.cfg.sclkHz →
    ∀ r : Refusal, step s ≠ .refused r)

/-- The parameters are fixed when the block is built: every step keeps them, and CLOCK_RATE stays SCLK_HZ. (R8, R18) -/
def Obligations.ConfigurationNeverChanges : Prop :=
  ∀ s t : State, step s = .next t →
    t.cfg = s.cfg ∧ (s.clockRate = s.cfg.sclkHz → t.clockRate = t.cfg.sclkHz)

/-- If the buffer holds exactly the offsets 0 to 1023, in order, it does so after any step, the block's reset included;
it does so at reset. (R33) -/
def Obligations.BufferStaysWhole : Prop :=
  (∀ s t : State, s.fb.wf → step s = .next t → t.fb.wf ∧ t.fb.length = 1024) ∧
  State.reset.fb.wf ∧ State.reset.fb.length = 1024

/-- Out of reset, a step either leaves FB as it is or accepts a word that decodes to FB_WRITE(OFF, D), after which every
offset but OFF reads as before and OFF reads D. The host's words are a list, and rst_n is sampled at each step, by
the model's choice (log entries 6 and 8). (R32, R43, R82, R88, R93) -/
def Obligations.OnlyFbWriteChangesTheBuffer : Prop :=
  ∀ s t : State, step s = .next t → s.rstN.head? ≠ some .low →
    t.fb = s.fb ∨
    ∃ (w : Word) (later : List Word) (off : BitVec 16) (d : Byte), s.sess = .ready ∧ s.busy = false ∧
      s.hostWords = w :: later ∧ decode (.host w) = .ok (.fbWrite off d) ∧
      ∀ a : Nat, t.fb.read a = if a = off.toNat then some d else s.fb.read a

/-- With a whole buffer and an offset below 1024, the meaning answers the state with that one byte replaced, seq empty
and RESP = ACK. Every other offset reads as before, and every other register is unchanged. (R66, R43) -/
def Obligations.FbWriteStoresOneByte : Prop :=
  ∀ (off : BitVec 16) (d : Byte) (s : State), s.fb.wf → off.toNat < 1024 →
    ∃ fb : Memory, exec (.fbWrite off d) s = .next { s with fb := fb, seq := [], resp := .ack } ∧ fb.wf ∧
      ∀ a : Nat, fb.read a = if a = off.toNat then some d else s.fb.read a

/-- With a whole buffer and an offset below 1024, the meaning answers the state with seq empty and RESP = DATA(b), where
b is the byte at the offset; FB and every other register are unchanged. (R67, R43) -/
def Obligations.FbReadReturnsTheByte : Prop :=
  ∀ (off : BitVec 16) (s : State), s.fb.wf → off.toNat < 1024 →
    ∃ b : Byte, s.fb.read off.toNat = some b ∧ exec (.fbRead off) s = .next { s with seq := [], resp := .data b }

/-- With a whole buffer, FB_WRITE and FB_READ at an offset of 1024 or more record FB_RANGE and the word 0x60000000 +
OFF*256 + D (0x70000000 + OFF*256), and store and return nothing. That the meaning itself raises the fault again is
the model's choice (log entry 13): decode has rejected the word before. (R57, R66, R67, R90) -/
def Obligations.BufferOffsetOutOfRangeFaults : Prop :=
  ∀ (off : BitVec 16) (d : Byte) (s : State), s.fb.wf → 1024 ≤ off.toNat →
    exec (.fbWrite off d) s =
      .next (s.withFault .fbRange (BitVec.ofNat 32 (0x60000000 + off.toNat * 256 + d.toNat))) ∧
    exec (.fbRead off) s = .next (s.withFault .fbRange (BitVec.ofNat 32 (0x70000000 + off.toNat * 256)))

/-- A waiting block with a whole buffer that is given FB_WRITE(OFF, D) and then FB_READ(OFF) comes to wait again with
the responses ACK and DATA(D), no device event, and FB changed at OFF alone. The host's words are a list by the
model's choice (log entry 6), and an acceptance and a completion are one step each (log entry 17). (R48, R66, R67) -/
def Obligations.ReadAfterWriteRespondsWithTheByte : Prop :=
  ∀ (s : State) (off : BitVec 16) (d : Byte) (later : List Word), s.Waiting → s.fb.wf → off.toNat < 1024 →
    s.hostWords = BitVec.ofNat 32 (0x60000000 + off.toNat * 256 + d.toNat)
      :: BitVec.ofNat 32 (0x70000000 + off.toNat * 256) :: later →
    ∃ t : State, s.LeadsTo t ∧ t.Waiting ∧ t.responses = s.responses ++ [.ack, .data d] ∧ t.trace = s.trace ∧
      t.hostWords = later ∧ t.faultCode = s.faultCode ∧
      ∀ a : Nat, t.fb.read a = if a = off.toNat then some d else s.fb.read a

/-- In a whole buffer the slice of page p has exactly 128 bytes, byte x of it is the byte at offset p*128 + x, and the
eight slices one after another are all bytes of the buffer in order. (R38, which the spec marks as its own inference
from R35.) (R35, R11) -/
def Obligations.PagesPartitionTheBuffer : Prop :=
  ∀ m : Memory, m.wf →
    (∀ p < 8, (m.slice (p * 128) 128).length = 128 ∧
      ∀ x < 128, (m.slice (p * 128) 128)[x]? = m.read (p * 128 + x)) ∧
    (List.range 8).flatMap (fun p => m.slice (p * 128) 128) = m.map Prod.snd

/-- For coordinates in range the offset is (y / 8) * 128 + x, below 1024, and the bit is y mod 8, below 8; equal offset
and bit mean equal coordinates; every offset below 1024 and bit below 8 belongs to a pixel; the pixel's value is
that bit of that byte. A coordinate outside the range has no pixel. (R37, which the spec marks as its own inference
from R35; the weight of a bit is general knowledge the spec adopts, log entry 18.) (R35, R36) -/
def Obligations.PixelMapIsBijective : Prop :=
  (∀ x y : Nat, x < 128 → y < 64 → pixOffset x y = y / 8 * 128 + x ∧ pixOffset x y < 1024 ∧
    pixBit x y = y % 8 ∧ pixBit x y < 8) ∧
  (∀ x y x' y' : Nat, x < 128 → y < 64 → x' < 128 → y' < 64 →
    pixOffset x y = pixOffset x' y' → pixBit x y = pixBit x' y' → x = x' ∧ y = y') ∧
  (∀ off k : Nat, off < 1024 → k < 8 → ∃ x y : Nat, x < 128 ∧ y < 64 ∧ pixOffset x y = off ∧ pixBit x y = k) ∧
  (∀ (m : Memory) (x y : Nat), x < 128 → y < 64 → m.wf →
    ∃ b : Byte, m.read (y / 8 * 128 + x) = some b ∧
      m.pixel x y = some (BitVec.ofNat 1 (b.toNat / 2 ^ (y % 8)))) ∧
  (∀ (m : Memory) (x y : Nat), (128 ≤ x ∨ 64 ≤ y) → m.pixel x y = none)

/-- For every page, column and bit in range, the pixel is bit b of the byte at offset page*128 + x of a whole buffer,
where bit b is the bit of weight 2^b (the weight is general knowledge the spec adopts, log entry 18). The layout is
R35's; the weight clause is the spec's own convention. (R35, R10) -/
def Obligations.VerticalByteLayout : Prop :=
  ∀ (m : Memory) (page x b : Nat), m.wf → page < 8 → x < 128 → b < 8 →
    ∃ v : Byte, m.read (page * 128 + x) = some v ∧
      m.pixel x (8 * page + b) = some (if v.getLsbD b then 1 else 0)

/-- A waiting block with a whole buffer is given the host's pixel set of (x, y, v) (the assembled FBRD of the pixel's
offset, then FBWR of the returned byte with the pixel's bit replaced) and a pixel get (the same FBRD). It comes to
wait again with the three responses; the bit the host takes from the last returned byte is v; pixel (x, y) is v and
every other pixel is as before. (R70, which the spec marks as its own inference from R69, R67 and R37.) The weight
of a bit is general knowledge the spec adopts (log entry 18); the assembler's lines are structured data, and the
host's words a list, by the model's choice (log entries 22 and 6). (R35, R64, R66, R67) -/
def Obligations.PixelSetReadsBack : Prop :=
  ∀ (s : State) (x y : Nat) (v : BitVec 1) (b : Byte) (rd wr : Word) (later : List Word), s.Waiting → s.fb.wf →
    x < 128 → y < 64 → s.fb.read (pixOffset x y) = some b →
    assemble (.fbRd (pixOffset x y)) = some rd →
    assemble (.fbWr (pixOffset x y) (byteWithBit b (pixBit x y) v).toNat) = some wr →
    s.hostWords = rd :: wr :: rd :: later →
    ∃ (t : State) (b' : Byte), s.LeadsTo t ∧ t.Waiting ∧ t.hostWords = later ∧
      t.responses = s.responses ++ [.data b, .ack, .data b'] ∧ pixGetValue x y b' = v ∧
      t.fb.pixel x y = some v ∧
      ∀ x' y' : Nat, (x' ≠ x ∨ y' ≠ y) → t.fb.pixel x' y' = s.fb.pixel x' y'

/-- PIXGET and PIXSET read the pixel's offset, PIXSET then writes back the returned byte with exactly the pixel's bit
replaced by v, the host takes the pixel's bit of the returned byte, and coordinates outside 128 by 64 are refused.
FILL d is the 1024 writes of d in offset order, CLEAR is FILL 0, SHOW is SENDBUF. Lines as structured data, and
PIXSET's write back as a function of the byte read, are the model's choice (log entry 22); the weight of a bit is
general knowledge the spec adopts (log entry 18). (R64) -/
def Obligations.PseudoOperationsExpand : Prop :=
  (∀ x y : Nat, x < 128 → y < 64 →
    (Pseudo.pixGet x y).firstLines = some [.fbRd (y / 8 * 128 + x)] ∧
    (∀ b : Byte, (Pseudo.pixGet x y).linesAfterRead b = [] ∧
      pixGetValue x y b = if b.getLsbD (y % 8) then 1 else 0) ∧
    ∀ v : BitVec 1, (Pseudo.pixSet x y v).firstLines = some [.fbRd (y / 8 * 128 + x)] ∧
      ∀ b : Byte, ∃ b' : Byte, (Pseudo.pixSet x y v).linesAfterRead b = [.fbWr (y / 8 * 128 + x) b'.toNat] ∧
        ∀ j < 8, b'.getLsbD j = if j = y % 8 then decide (v = 1) else b.getLsbD j) ∧
  (∀ (x y : Nat) (v : BitVec 1), (128 ≤ x ∨ 64 ≤ y) →
    (Pseudo.pixGet x y).firstLines = none ∧ (Pseudo.pixSet x y v).firstLines = none) ∧
  (∀ d : Nat, ∃ lines : List AsmLine, (Pseudo.fill d).firstLines = some lines ∧ lines.length = 1024 ∧
    ∀ i < 1024, lines[i]? = some (.fbWr i d)) ∧
  Pseudo.clear.firstLines = (Pseudo.fill 0).firstLines ∧
  Pseudo.show.firstLines = some [.sendBuf]

/-- For each line of the assembler table, an operand in its field gives the word of the table and an operand outside it
gives none; in-field values the machine faults on are accepted. Lines are structured data here, not text (log entry
22). (R63) -/
def Obligations.AssemblerWords : Prop :=
  assemble .init = some 0x10000000 ∧ assemble .sendBuf = some 0x50000000 ∧
  (∀ v : Nat, (v ≤ 65535 → assemble (.setContrast v) = some (BitVec.ofNat 32 (0x20000000 + v))) ∧
    (65535 < v → assemble (.setContrast v) = none)) ∧
  (∀ f : Nat, (f ≤ 1 → assemble (.setInv f) = some (BitVec.ofNat 32 (0x30000000 + f))) ∧
    (1 < f → assemble (.setInv f) = none)) ∧
  (∀ p c : Nat, (p ≤ 255 → c ≤ 255 → assemble (.setCur p c) = some (BitVec.ofNat 32 (0x40000000 + p * 256 + c))) ∧
    ((255 < p ∨ 255 < c) → assemble (.setCur p c) = none)) ∧
  (∀ off d : Nat, (off ≤ 65535 → d ≤ 255 →
      assemble (.fbWr off d) = some (BitVec.ofNat 32 (0x60000000 + off * 256 + d))) ∧
    ((65535 < off ∨ 255 < d) → assemble (.fbWr off d) = none)) ∧
  (∀ off : Nat, (off ≤ 65535 → assemble (.fbRd off) = some (BitVec.ofNat 32 (0x70000000 + off * 256))) ∧
    (65535 < off → assemble (.fbRd off) = none)) ∧
  (∀ w : Nat, (w < 2 ^ 32 → assemble (.word w) = some (BitVec.ofNat 32 w)) ∧
    (2 ^ 32 ≤ w → assemble (.word w) = none))

/-- The meaning of INIT answers the state with seq = SetSess(UNINIT), the reset pulse if there is a reset line, the
transaction [E2], SetSess(CONFIG), the fifteen other transactions in order, SetSess(READY), and RESP = ACK; FB and
everything else is unchanged. (R79, R80, R81, R82, R86) -/
def Obligations.InitLoadsItsSequence : Prop :=
  ∀ s : State, exec .init s = .next { s with
    seq := [.setSess .uninit]
      ++ (if s.cfg.hasRst then [.lineSet .rst .low, .wait s.cfg.resetHoldMs, .lineSet .rst .high] else [])
      ++ commandActions s.cfg [0xE2] ++ [.setSess .config]
      ++ ([[0x40], [0xC8], [0xA0], [0xA4], [0xA6], [0xA2], [0x27], [0xF8, 0x00], [0x23], [0x81, 0x20], [0xEE], [0xAF],
        [0xB0], [0x00], [0x10]] : List (List Byte)).flatMap (commandActions s.cfg)
      ++ [.setSess .ready]
    resp := .ack }

/-- For every 16-bit V the meaning answers the state with seq the one command transaction [0x81, (V / 4) mod 64] and
RESP = ACK, and everything else unchanged. (R56, R72, R74, R83) -/
def Obligations.SetContrastLoadsOneCommand : Prop :=
  ∀ (v : BitVec 16) (s : State), exec (.setContrast v) s =
    .next { s with seq := commandActions s.cfg [0x81, BitVec.ofNat 8 (v.toNat / 4 % 64)], resp := .ack }

/-- The meaning answers the state with seq the one command transaction [0xA7] when F = 1 and [0xA6] when F = 0, RESP =
ACK, and everything else unchanged. (R72, R74, R85) -/
def Obligations.SetInverseLoadsOneCommand : Prop :=
  ∀ (f : BitVec 1) (s : State), exec (.setInverse f) s =
    .next { s with seq := commandActions s.cfg [if f = 1 then 0xA7 else 0xA6], resp := .ack }

/-- For every P and C of 8 bits the meaning answers the state with seq the three command transactions [0xB0 + P mod 16],
[C mod 16], [0x10 + C / 16], RESP = ACK, and everything else unchanged. (R56, R86, R87) -/
def Obligations.SetCursorLoadsThreeCommands : Prop :=
  ∀ (p c : Byte) (s : State), exec (.setCursor p c) s = .next { s with
    seq := commandActions s.cfg [BitVec.ofNat 8 (0xB0 + p.toNat % 16)]
      ++ commandActions s.cfg [BitVec.ofNat 8 (c.toNat % 16)]
      ++ commandActions s.cfg [BitVec.ofNat 8 (0x10 + c.toNat / 16)]
    resp := .ack }

/-- With a whole buffer the meaning answers the state with seq, for p = 0 to 7 in order, the command transactions [0xB0
+ p], [0x00], [0x10] and one data transaction of exactly 128 bytes, byte k being the buffer's byte p*128 + k; RESP =
ACK and everything else, FB among it, unchanged. (R48, R86, R88) -/
def Obligations.SendBufferLoadsEightPages : Prop :=
  ∀ s : State, s.fb.wf → ∃ page : Nat → List Byte,
    (∀ p < 8, (page p).length = 128 ∧ ∀ k < 128, (page p)[k]? = s.fb.read (p * 128 + k)) ∧
    exec .sendBuffer s = .next { s with
      seq := (List.range 8).flatMap fun p =>
        commandActions s.cfg [BitVec.ofNat 8 (0xB0 + p)] ++ commandActions s.cfg [0x00]
          ++ commandActions s.cfg [0x10] ++ dataActions s.cfg (page p)
      resp := .ack }

/-- For each reserved code and every value of the other 28 bits, the meaning answers the state with FAULT_CODE =
ILLEGAL_OP, FAULT_INFO the word, SESS = FAULTED, seq empty, nothing pending, BUSY = 0, the FAULT response when the
operation came from the host, and everything else unchanged. (R57, R58, R90, R93) -/
def Obligations.ReservedCodesRaiseIllegalOp : Prop :=
  ∀ (rest : BitVec 28) (s : State) (i : Instr) (op : Nat),
    (i, op) ∈ [(.illegalOp0 rest, 0x0), (.illegalOp8 rest, 0x8), (.illegalOp9 rest, 0x9), (.illegalOpA rest, 0xA),
      (.illegalOpB rest, 0xB), (.illegalOpC rest, 0xC), (.illegalOpD rest, 0xD), (.illegalOpE rest, 0xE),
      (.illegalOpF rest, 0xF)] →
    exec i s = .next { s with
      faultCode := .illegalOp
      faultInfo := BitVec.ofNat 32 (op * 2 ^ 28 + rest.toNat)
      sess := .faulted
      seq := []
      pending := .none
      busy := false
      responses := if s.fromHost then s.responses ++ [.fault .illegalOp] else s.responses }

/-- For each wire command and every value of its operand bits, the meaning answers the state with PENDING = Write of the
bytes the table gives, and everything else unchanged. That a wire row's meaning is the start of its write is the
model's reading (log entry 11). (R22, R59, R61) -/
def Obligations.WireCommandsBecomeTheWriteInFlight : Prop :=
  ∀ (f : BitVec 1) (c6 : BitVec 6) (p4 clo chi : BitVec 4) (s : State) (i : Instr) (bs : List Byte),
    (i, bs) ∈ [(.w1SystemReset, [0xE2]), (.w2ScrollLine0, [0x40]), (.w3ComDirectionReversed, [0xC8]),
      (.w4SegmentDirectionNormal, [0xA0]), (.w5AllPixelNormal, [0xA4]),
      (.w6InverseDisplay f, [if f = 1 then 0xA7 else 0xA6]), (.w7LcdBias, [0xA2]), (.w8PowerControl, [0x27]),
      (.w9BoosterRatio, [0xF8, 0x00]), (.w10VlcdResistorRatio, [0x23]),
      (.w11Contrast c6, [0x81, BitVec.ofNat 8 c6.toNat]), (.w12CursorUpdateModeReset, [0xEE]), (.w13DisplayOn, [0xAF]),
      (.w14PageAddress p4, [BitVec.ofNat 8 (0xB0 + p4.toNat)]), (.w15ColumnLow clo, [BitVec.ofNat 8 clo.toNat]),
      (.w16ColumnHigh chi, [BitVec.ofNat 8 (0x10 + chi.toNat)])] →
    exec i s = .next { s with pending := .write bs }

/-- When the meaning of any operation answers a next state: the configuration, CUR_OP, its origin, the three levels,
CLOCK_RATE, the trace and the inputs are unchanged; every byte of FB but the one an FB_WRITE names reads as before;
a host operation that does not fault leaves SESS, BUSY, the fault registers, PENDING and the responses; a wire
command leaves all of these and seq and RESP, PENDING apart. That a wire row's meaning is the start of its write is
the model's reading (log entry 11). (R21, R22, R43, R59, R82, R83, R85, R87, R88, R93) -/
def Obligations.MeaningsLeaveTheRestUnchanged : Prop :=
  ∀ (i : Instr) (s t : State), exec i s = .next t →
    (t.cfg = s.cfg ∧ t.curOp = s.curOp ∧ t.fromHost = s.fromHost ∧ t.lvlRst = s.lvlRst ∧ t.lvlCs = s.lvlCs ∧
      t.lvlCd = s.lvlCd ∧ t.clockRate = s.clockRate ∧ t.trace = s.trace ∧ t.hostWords = s.hostWords ∧
      t.answers = s.answers ∧ t.rstN = s.rstN ∧ t.resets = s.resets) ∧
    (∀ a : Nat, (∀ off d, i = .fbWrite off d → a ≠ off.toNat) → t.fb.read a = s.fb.read a) ∧
    (t.sess ≠ .faulted → s.sess ≠ .faulted →
      t.sess = s.sess ∧ t.busy = s.busy ∧ t.faultCode = s.faultCode ∧ t.faultInfo = s.faultInfo ∧
        t.responses = s.responses) ∧
    (∀ w : Word, encode i = .host w → t.pending = s.pending ∨ t.sess = .faulted) ∧
    (∀ bs : List Byte, encode i = .wire bs → t.sess = s.sess ∧ t.busy = s.busy ∧ t.faultCode = s.faultCode ∧
      t.faultInfo = s.faultInfo ∧ t.responses = s.responses ∧ t.seq = s.seq ∧ t.resp = s.resp ∧ t.fb = s.fb)

/-- A waiting block given SET_CONTRAST with any 16-bit value, or SET_CURSOR with any page and column of 8 bits, goes on
working in READY with the fault register as it was, and the writes loaded are the masked values: [0x81, V[7:2]], or
[0xB0 + P mod 16], [C mod 16], [0x10 + C / 16]. That one step accepts, decodes and loads the writes is the model's
reading (log entry 17). (R26, R57, R83, R87, R91) -/
def Obligations.OperandValuesNeverFault : Prop :=
  ∀ (s : State) (later : List Word), s.Waiting →
    (∀ v : BitVec 16, s.hostWords = BitVec.ofNat 32 (0x20000000 + v.toNat) :: later →
      ∃ t : State, step s = .next t ∧ t.busy = true ∧ t.sess = .ready ∧ t.faultCode = s.faultCode ∧
        writesOf t.seq = [[0x81, BitVec.ofNat 8 (v.toNat / 4 % 64)]]) ∧
    (∀ p c : Byte, s.hostWords = BitVec.ofNat 32 (0x40000000 + p.toNat * 256 + c.toNat) :: later →
      ∃ t : State, step s = .next t ∧ t.busy = true ∧ t.sess = .ready ∧ t.faultCode = s.faultCode ∧
        writesOf t.seq = [[BitVec.ofNat 8 (0xB0 + p.toNat % 16)], [BitVec.ofNat 8 (c.toNat % 16)],
          [BitVec.ofNat 8 (0x10 + c.toNat / 16)]])

/-- For every configuration and byte list, frame_cmd and frame_data are the written-out lists: six actions with
chip-select, three without, with the levels the configuration gives; cursor is three command transactions. (R71,
R72, R73, R74, R76, R86) -/
def Obligations.FramingFollowsTheConfiguration : Prop :=
  (∀ (c : Config) (bs : List Byte), c.hasCs = true →
    frameCmd c bs = [.busConfig, .lineSet .cs c.csActiveLevel.flip, .lineSet .cd c.cdCommandLevel,
      .lineSet .cs c.csActiveLevel, .busWrite bs, .lineSet .cs c.csActiveLevel.flip] ∧
    frameData c bs = [.busConfig, .lineSet .cs c.csActiveLevel.flip, .lineSet .cd c.cdCommandLevel.flip,
      .lineSet .cs c.csActiveLevel, .busWrite bs, .lineSet .cs c.csActiveLevel.flip]) ∧
  (∀ (c : Config) (bs : List Byte), c.hasCs = false →
    frameCmd c bs = [.busConfig, .lineSet .cd c.cdCommandLevel, .busWrite bs] ∧
    frameData c bs = [.busConfig, .lineSet .cd c.cdCommandLevel.flip, .busWrite bs]) ∧
  (∀ (c : Config) (p col : Byte), cursor c p col =
    frameCmd c [0xB0 ||| (p &&& 0x0F)] ++ frameCmd c [0x00 ||| (col &&& 0x0F)]
      ++ frameCmd c [0x10 ||| ((col >>> 4) &&& 0x0F)])

/-- With HAS_CS false, frame_cmd and frame_data are the bus configuration, the command/data level and the write. Every
step from a state that meets the invariant leaves a trace with no event on CS, and LVL_CS absent. (R74) -/
def Obligations.NoChipSelectNoChipSelectEvents : Prop :=
  (∀ (c : Config) (bs : List Byte), c.hasCs = false →
    frameCmd c bs = [.busConfig, .lineSet .cd c.cdCommandLevel, .busWrite bs] ∧
    frameData c bs = [.busConfig, .lineSet .cd c.cdCommandLevel.flip, .busWrite bs]) ∧
  (∀ s t : State, s.Inv → s.cfg.hasCs = false → step s = .next t →
    t.lvlCs = none ∧ ∀ v : Level, .lineConfig .cs v ∉ t.trace ∧ .lineSet .cs v ∉ t.trace)

/-- Every transaction's action list begins with BusConfig. When a step from a state that meets the invariant emits a
write, complete or failed, the trace before it holds a BusConfig(SCLK_HZ, CPOL, CPHA) with no other write after it.
(R76) -/
def Obligations.EveryWriteFollowsItsOwnBusConfig : Prop :=
  (∀ (c : Config) (bs : List Byte), (frameCmd c bs).head? = some .busConfig ∧
    (frameData c bs).head? = some .busConfig) ∧
  (∀ (s t : State) (bs : List Byte), s.Inv → step s = .next t →
    (t.trace = s.trace ++ [.write bs] ∨ t.trace = s.trace ++ [.writeFault bs]) →
    ∃ before after : List Event, s.trace = before ++ [.busConfig s.cfg.sclkHz s.cfg.cpol s.cfg.cpha] ++ after ∧
      ∀ e ∈ after, ∀ xs : List Byte, e ≠ .write xs ∧ e ≠ .writeFault xs)

/-- When a step from a state that meets the invariant emits a write of bs, complete or failed, either CD is at the
command level and bs decodes to exactly one wire command, or CD is at the data level and bs has exactly 128 bytes;
with chip-select, the line is asserted. (R59, R61, R62, R72, R73) -/
def Obligations.WritesAreCommandsOrPages : Prop :=
  ∀ (s t : State) (bs : List Byte), s.Inv → step s = .next t →
    (t.trace = s.trace ++ [.write bs] ∨ t.trace = s.trace ++ [.writeFault bs]) →
    ((s.lvlCd = .driven s.cfg.cdCommandLevel ∧ ∃ i, decode (.wire bs) = .ok i) ∨
      (s.lvlCd = .driven s.cfg.cdCommandLevel.flip ∧ bs.length = 128)) ∧
    (s.cfg.hasCs = true → s.lvlCs = some (.driven s.cfg.csActiveLevel))

/-- The actions that the meanings of INIT and SEND_BUFFER load emit, when every write completes, the number of events
the rules give for each choice of reset and chip-select lines. SEND_BUFFER makes exactly 32 writes, INIT 16. (R82,
R88) -/
def Obligations.EventCountsOfWholeOperations : Prop :=
  (∀ s t : State, exec .init s = .next t → (writesOf t.seq).length = 16 ∧
    (eventsOf s.cfg t.seq).length =
      if s.cfg.hasRst then (if s.cfg.hasCs then 99 else 51) else (if s.cfg.hasCs then 96 else 48)) ∧
  (∀ s t : State, exec .sendBuffer s = .next t → (writesOf t.seq).length = 32 ∧
    (eventsOf s.cfg t.seq).length = if s.cfg.hasCs then 192 else 96)

/-- From every state that meets the invariant, a step answers a state that meets it: an admitted configuration, a whole
buffer, levels present exactly for present lines, FAULTED exactly with a recorded fault, an idle block empty,
settled and deasserted, the rest of the operation whole transactions on present lines that end in READY by the
listed session changes, and a trace of allowed events only. (R18, R20, R22, R33, R47, R59, R62, R76, R78, R93, R113) -/
def Obligations.StepKeepsInvariant : Prop :=
  ∀ s t : State, s.Inv → step s = .next t → t.Inv

/-- State.reset meets the invariant, whatever the OPEN parameters, the line order, the buffer's reset draw and the
inputs are. (R106, R107) -/
def Obligations.ResetHasInvariant : Prop :=
  State.reset.Inv

/-- From a state that meets the invariant, a step out of reset keeps SESS or changes it UNINIT to CONFIG, CONFIG to
READY, READY to UNINIT, or any other state to FAULTED; with rst_n low SESS becomes UNINIT. That rst_n low takes any
state to UNINIT is the block's reset (R105, R106), sampled at each step by the model's choice (log entry 8). (R20,
R21, R28, R105, R106) -/
def Obligations.SessionChangesOnlyAsListed : Prop :=
  ∀ s t : State, s.Inv → step s = .next t →
    (s.rstN.head? = some .low → t.sess = .uninit) ∧
    (s.rstN.head? ≠ some .low → t.sess = s.sess ∨
      (s.sess, t.sess) ∈ [(.uninit, .config), (.config, .ready), (.ready, .uninit), (.uninit, .faulted),
        (.config, .faulted), (.ready, .faulted)])

/-- From a state that meets the invariant with CS asserted, a step out of reset leaves the level of CD as it is, and
emits nothing, the transaction's write or failed write, or the closing LineSet(CS, deasserted). In every transaction
with chip-select the list sets CD before CS is asserted and not again. (R47 and R78, which the spec marks as its own
inferences from R72, R73 and R23.) That rst_n is sampled at each step is the model's choice (log entry 8). (R72,
R73, R23) -/
def Obligations.CommandDataHeldWhileChipSelectAsserted : Prop :=
  (∀ s t : State, s.Inv → s.csAsserted = true → step s = .next t → s.rstN.head? ≠ some .low →
    t.lvlCd = s.lvlCd ∧
    (t.trace = s.trace ∨ (∃ bs, t.trace = s.trace ++ [.write bs]) ∨ (∃ bs, t.trace = s.trace ++ [.writeFault bs]) ∨
      t.trace = s.trace ++ [.lineSet .cs s.cfg.csActiveLevel.flip])) ∧
  (∀ (c : Config) (bs : List Byte), c.hasCs = true → ∀ x ∈ [(frameCmd c bs, c.cdCommandLevel),
      (frameData c bs, c.cdCommandLevel.flip)],
    x.1 = [.busConfig, .lineSet .cs c.csActiveLevel.flip, .lineSet .cd x.2, .lineSet .cs c.csActiveLevel, .busWrite bs,
      .lineSet .cs c.csActiveLevel.flip])

/-- Every step keeps all earlier events and responses in place and appends at most one of each; a step of a block that
is not busy emits no event. That the trace is kept across the block's reset is the model's choice (log entry 10).
(R46, R48) -/
def Obligations.TraceOnlyGrows : Prop :=
  ∀ s t : State, step s = .next t →
    (∃ es : List Event, es.length ≤ 1 ∧ t.trace = s.trace ++ es ∧ (s.busy = false → es = [])) ∧
    (∃ rs : List Response, rs.length ≤ 1 ∧ t.responses = s.responses ++ rs)

/-- State.reset has every value of the table: SESS UNINIT, BUSY 1, no fault, CUR_OP 0x10000000, seq the construction
sequence, nothing pending, no response, the present lines unconfigured, STATUS 0x04, FB any 1024 bytes; also
CLOCK_RATE = SCLK_HZ (R18) and the origin bit, which is the model's (log entry 9). So has the state after a step
with rst_n low, from any state of any admitted block. That a low sample of rst_n is one step is the model's choice
(log entry 8). (R18, R105, R106) -/
def Obligations.ResetGivesTheResetValues : Prop :=
  State.reset.AtReset ∧
  ∀ (s : State) (later : List Level), configRefusal s.cfg = none → s.rstN = .low :: later →
    ∃ t : State, step s = .next t ∧ t.AtReset ∧ t.cfg = s.cfg ∧ t.rstN = later

/-- From any state of an admitted block, any positive number of steps with rst_n low leads to a state with every reset
value, with the same trace and responses as before and no host word or transport answer consumed. That rst_n is
sampled at each step and the inputs are kept is the model's choice (log entry 8), and so is keeping trace and
responses (log entry 10). (R105, R106) -/
def Obligations.ResetAbandonsTheOperation : Prop :=
  ∀ (s : State) (k : Nat) (later : List Level), configRefusal s.cfg = none →
    s.rstN = List.replicate (k + 1) .low ++ later →
    ∃ t : State, runSteps (k + 1) s = .next t ∧ t.AtReset ∧ t.cfg = s.cfg ∧ t.rstN = later ∧ t.trace = s.trace ∧
      t.responses = s.responses ∧ t.hostWords = s.hostWords ∧ t.answers = s.answers

/-- A working block whose remaining actions are on present lines and never set FAULTED, with the answer ok for each
remaining write, comes to complete: the trace has grown by exactly the events of the remaining actions in order,
SESS is what they set last, one answer per write is consumed, the response is returned when the operation came from
the host, and FB, CUR_OP, the fault registers and the host's words are unchanged. The answers are a list and a delay
ends at the next step by the model's choice (log entries 7 and 15); completion is a step of its own (log entry 17).
(R22, R23, R24, R25, R27, R119) -/
def Obligations.AnsweredOperationRunsToCompletion : Prop :=
  ∀ (s : State) (more : List TransportAnswer), s.Working → s.clockRate = s.cfg.sclkHz →
    (∀ a ∈ s.seq, ∀ l, a.line? = some l → hasLine s.cfg l = true) → .setSess .faulted ∉ s.seq →
    s.answers = List.replicate (writesOf s.seq).length .ok ++ more →
    ∃ t : State, s.LeadsTo t ∧ t.trace = s.trace ++ eventsOf s.cfg s.seq ∧ t.sess = sessAfter s.sess s.seq ∧
      t.busy = false ∧ t.seq = [] ∧ t.pending = .none ∧ t.resp = s.resp ∧ t.answers = more ∧ t.rstN = [] ∧
      t.responses = (if s.fromHost then s.responses ++ [s.resp.response] else s.responses) ∧
      t.cfg = s.cfg ∧ t.fb = s.fb ∧ t.curOp = s.curOp ∧ t.fromHost = s.fromHost ∧ t.faultCode = s.faultCode ∧
      t.faultInfo = s.faultInfo ∧ t.hostWords = s.hostWords ∧ t.clockRate = s.clockRate

/-- A working block whose remaining actions are before, the write of bs, after, on present lines, with the answer ok for
each write of before and then fail, comes to FAULTED with TRANSPORT_FAULT and CUR_OP recorded: the trace has grown
by the events of before and WriteFault(bs) only, seq is empty, FB is unchanged, and the FAULT response is returned
when the operation came from the host. The answers are a list and a delay ends at the next step by the model's
choice (log entries 7 and 15). (R24, R88, R93, R94, R95) -/
def Obligations.FailedWriteEndsTheOperation : Prop :=
  ∀ (s : State) (before after : List Action) (bs : List Byte) (more : List TransportAnswer), s.Working →
    s.clockRate = s.cfg.sclkHz → s.seq = before ++ .busWrite bs :: after →
    (∀ a ∈ before, ∀ l, a.line? = some l → hasLine s.cfg l = true) → .setSess .faulted ∉ before →
    s.answers = List.replicate (writesOf before).length .ok ++ .fail :: more →
    ∃ t : State, s.LeadsTo t ∧ t.trace = s.trace ++ eventsOf s.cfg before ++ [.writeFault bs] ∧ t.sess = .faulted ∧
      t.faultCode = .transportFault ∧ t.faultInfo = s.curOp ∧ t.seq = [] ∧ t.pending = .none ∧ t.busy = false ∧
      t.fb = s.fb ∧ t.cfg = s.cfg ∧ t.hostWords = s.hostWords ∧ t.answers = more ∧
      t.responses = (if s.fromHost then s.responses ++ [.fault .transportFault] else s.responses)

/-- The line configurations of a construction sequence are a permutation of those of the present lines, and every
permutation is the sequence of some line order. From the reset values, with rst_n released: if the transport answers
the sixteen writes, the block comes to wait in READY with exactly those configurations, the reset pulse and the
sixteen transactions as its new events, no response, no host word taken, and FB kept; if one of the writes fails, it
comes to FAULTED with code 1 and FAULT_INFO = 0x10000000, no response. The line order is a draw of the reset (log
entry 5); that the answers are a list, that rst_n is sampled at each step and that a delay ends at the next step are
the model's choices (log entries 7, 8 and 15). (R79, R80, R82, R93, R106, R107) -/
def Obligations.ConstructionReachesReadyOrFaulted : Prop :=
  (∀ (c : Config) (o : LineOrder), ∃ lines : List Action, lines.Perm (lineConfigs c) ∧
    construction c o = lines ++ initActions c) ∧
  (∀ (c : Config) (lines : List Action), lines.Perm (lineConfigs c) →
    ∃ o : LineOrder, construction c o = lines ++ initActions c) ∧
  (∀ (s : State) (more : List TransportAnswer), configRefusal s.cfg = none → s.AtReset → s.rstN = [] →
    s.answers = List.replicate 16 .ok ++ more →
    ∃ (t : State) (lines : List Action), s.LeadsTo t ∧ t.Waiting ∧ lines.Perm (lineConfigs s.cfg) ∧
      t.trace = s.trace ++ eventsOf s.cfg lines ++ initEvents s.cfg ∧ t.responses = s.responses ∧
      t.hostWords = s.hostWords ∧ t.fb = s.fb ∧ t.faultCode = .none ∧ t.status = 0x02 ∧
      t.lvlRst = (if s.cfg.hasRst then some (.driven .high) else none) ∧
      t.lvlCs = (if s.cfg.hasCs then some (.driven s.cfg.csActiveLevel.flip) else none) ∧
      t.lvlCd = .driven s.cfg.cdCommandLevel) ∧
  (∀ (s : State) (n : Nat) (more : List TransportAnswer), configRefusal s.cfg = none → s.AtReset → s.rstN = [] →
    n < 16 → s.answers = List.replicate n .ok ++ .fail :: more →
    ∃ t : State, s.LeadsTo t ∧ t.sess = .faulted ∧ t.faultCode = .transportFault ∧ t.faultInfo = 0x10000000 ∧
      t.busy = false ∧ t.responses = s.responses ∧ t.fb = s.fb)

/-- A waiting block that meets the invariant, given the word 0x50000000 and a transport that answers 32 writes, comes to
wait again with exactly these new events: for p = 0 to 7, the cursor at (p, 0) in three command transactions and one
data transaction of page p. Each page has exactly 128 bytes, byte k of it is the byte at offset p*128 + k, and the
eight pages one after another are the whole buffer. FB is unchanged and the response is ACK. (R89, which the spec
marks as its own inference from R88 and R38.) The host's words and the answers are lists by the model's choice (log
entries 6 and 7). (R35, R72, R73, R86, R88) -/
def Obligations.SendBufferTransfersThePages : Prop :=
  ∀ (s : State) (later : List Word) (more : List TransportAnswer), s.Inv → s.Waiting →
    s.hostWords = 0x50000000 :: later → s.answers = List.replicate 32 .ok ++ more →
    ∃ (t : State) (page : Nat → List Byte), s.LeadsTo t ∧ t.Waiting ∧ t.fb = s.fb ∧ t.hostWords = later ∧
      t.answers = more ∧ t.responses = s.responses ++ [.ack] ∧ t.faultCode = .none ∧
      t.trace = s.trace ++ (List.range 8).flatMap (fun p => pageEvents s.cfg p (page p)) ∧
      (∀ p < 8, (page p).length = 128 ∧ ∀ k < 128, (page p)[k]? = s.fb.read (p * 128 + k)) ∧
      (List.range 8).flatMap page = s.fb.map Prod.snd

/-- A waiting block that meets the invariant, given SET_CONTRAST V twice and a transport that answers both writes, comes
to wait after each. The second time the state is the one after the first but for the ports: the same transaction
appended once more to the trace, another ACK, and the word and the answer consumed. (R84, which the spec marks as
its own inference from R83.) The host's words and the answers are lists by the model's choice (log entries 6 and 7).
(R83, R72, R27) -/
def Obligations.RepeatedContrastOnlyExtendsTheTrace : Prop :=
  ∀ (s : State) (v : BitVec 16) (w : Word) (later : List Word) (more : List TransportAnswer), s.Inv → s.Waiting →
    w = BitVec.ofNat 32 (0x20000000 + v.toNat) → s.hostWords = w :: w :: later → s.answers = .ok :: .ok :: more →
    ∃ (t : State), s.LeadsTo t ∧ t.Waiting ∧
      t.trace = s.trace ++ commandEvents s.cfg [0x81, BitVec.ofNat 8 (v.toNat / 4 % 64)] ∧
      t.fb = s.fb ∧ t.faultCode = s.faultCode ∧ t.responses = s.responses ++ [.ack] ∧
      t.LeadsTo { t with
        trace := t.trace ++ commandEvents s.cfg [0x81, BitVec.ofNat 8 (v.toNat / 4 % 64)]
        responses := t.responses ++ [.ack]
        hostWords := later
        answers := more }

/-- A waiting block that meets the invariant takes a word without a fault; if the transport answers every write the
operation loads, the block comes to wait again with exactly the events of the loaded actions appended, one response
(the one loaded), FB as it was after acceptance, and no fault recorded. The host's words and the answers are lists,
a delay ends at the next step, and an acceptance and a completion are one step each, by the model's choice or
reading (log entries 6, 7, 15 and 17). (R26, R27, R48, R119) -/
def Obligations.HostOperationRunsToItsResponse : Prop :=
  ∀ (s t : State) (w : Word) (later : List Word) (more : List TransportAnswer), s.Inv → s.Waiting →
    s.hostWords = w :: later → step s = .next t → t.sess = .ready →
    s.answers = List.replicate (writesOf t.seq).length .ok ++ more →
    ∃ u : State, s.LeadsTo u ∧ u.Waiting ∧ u.trace = s.trace ++ eventsOf s.cfg t.seq ∧
      u.responses = s.responses ++ [t.resp.response] ∧ u.fb = t.fb ∧ u.hostWords = later ∧ u.answers = more ∧
      u.faultCode = .none ∧ u.curOp = w

/-- If a block steps to t, the same block with another BIT_ORDER steps to t with that BIT_ORDER: no rule reads the
parameter, and no behaviour depends on it. (R8, R40) -/
def Obligations.BitOrderIsReadByNothing : Prop :=
  ∀ (s t : State) (b : BitOrder), step s = .next t →
    step { s with cfg := { s.cfg with bitOrder := b } } = .next { t with cfg := { t.cfg with bitOrder := b } }
end

