-- ==== Sys2Proof/Laws/Decode.lean ====
section
/-! SUPPORT. The fields of a host operation word, and the parameter bits of a wire command, read back from what the encoder writes. -/

namespace Sys2Proof

/-! ### Host operation words (30_encoding.md R53) -/

@[simp] theorem opField_opWord (op : BitVec 4) (rest : BitVec 28) : opField (opWord op rest) = op := by
  ext i hi
  simp [opField, opWord, show 28 + i < 32 by omega, BitVec.getLsbD_eq_getElem hi]

@[simp] theorem restField_opWord (op : BitVec 4) (rest : BitVec 28) : restField (opWord op rest) = rest := by
  ext i hi
  simp [restField, opWord, hi, show i < 32 by omega]

/-- A word is its operation code and its operand bits. -/
@[simp] theorem opWord_fields (w : Word) : opWord (opField w) (restField w) = w := by
  ext i hi
  by_cases h : i < 28
  · simp [opWord, opField, restField, h, hi]
  · simp [opWord, opField, restField, h, hi, show i - 28 < 4 by omega, show 28 + (i - 28) = i by omega]

theorem valueField_opWord (op : BitVec 4) (rest : BitVec 28) :
    valueField (opWord op rest) = rest.extractLsb' 0 16 := by
  ext i hi
  simp [valueField, opWord, show i < 28 by omega, show i < 32 by omega]

theorem flagField_opWord (op : BitVec 4) (rest : BitVec 28) : flagField (opWord op rest) = rest.extractLsb' 0 1 := by
  ext i hi
  simp [flagField, opWord, show i < 28 by omega, show i < 32 by omega]

theorem offsetField_opWord (op : BitVec 4) (rest : BitVec 28) :
    offsetField (opWord op rest) = rest.extractLsb' 8 16 := by
  ext i hi
  simp [offsetField, opWord, show 8 + i < 28 by omega, show 8 + i < 32 by omega]

theorem dataField_opWord (op : BitVec 4) (rest : BitVec 28) : dataField (opWord op rest) = rest.extractLsb' 0 8 := by
  ext i hi
  simp [dataField, opWord, show i < 28 by omega, show i < 32 by omega]

theorem columnField_opWord (op : BitVec 4) (rest : BitVec 28) :
    columnField (opWord op rest) = rest.extractLsb' 0 8 := dataField_opWord op rest

theorem pageField_opWord (op : BitVec 4) (rest : BitVec 28) : pageField (opWord op rest) = rest.extractLsb' 8 8 := by
  ext i hi
  simp [pageField, opWord, show 8 + i < 28 by omega, show 8 + i < 32 by omega]

@[simp] theorem overByte_upper (u : BitVec 16) (l : Byte) : (overByte u l).extractLsb' 8 16 = u := by
  ext i hi
  simp [overByte, show 8 + i < 28 by omega, BitVec.getLsbD_eq_getElem hi]

@[simp] theorem overByte_lower (u : BitVec 16) (l : Byte) : (overByte u l).extractLsb' 0 8 = l := by
  ext i hi
  simp [overByte, hi, show i < 28 by omega]

@[simp] theorem overByte_page (p l : Byte) : (overByte (p.setWidth 16) l).extractLsb' 8 8 = p := by
  ext i hi
  simp [overByte, show 8 + i < 28 by omega, BitVec.getLsbD_eq_getElem hi]

@[simp] theorem zext_value (v : BitVec 16) : (v.setWidth 28).extractLsb' 0 16 = v := by
  ext i hi
  simp [show i < 28 by omega, BitVec.getLsbD_eq_getElem hi]

@[simp] theorem zext_flag (f : BitVec 1) : (f.setWidth 28).extractLsb' 0 1 = f := by
  ext i hi
  simp [show i < 28 by omega, BitVec.getLsbD_eq_getElem hi]

theorem ite_of {α : Type} {P : α → Prop} {c : Prop} [Decidable c] {a b : α} (ha : c → P a) (hb : ¬c → P b) :
    P (if c then a else b) := by
  split
  · exact ha ‹_›
  · exact hb ‹_›

/-- A code that is none of 1 to 15 is 0. -/
theorem zero_of_not : ∀ op : BitVec 4, op ≠ 0x1 → op ≠ 0x2 → op ≠ 0x3 → op ≠ 0x4 → op ≠ 0x5 → op ≠ 0x6 → op ≠ 0x7 →
    op ≠ 0x8 → op ≠ 0x9 → op ≠ 0xA → op ≠ 0xB → op ≠ 0xC → op ≠ 0xD → op ≠ 0xE → op ≠ 0xF → op = 0x0 := by
  intros
  bv_omega

/-- Every operation code selects its row: what holds of each row under its code holds of the operation selected. -/
theorem selectOp_cases {P : Instr → Prop} (w : Word)
    (h1 : opField w = 0x1 → P .init)
    (h2 : opField w = 0x2 → P (.setContrast (valueField w)))
    (h3 : opField w = 0x3 → P (.setInverse (flagField w)))
    (h4 : opField w = 0x4 → P (.setCursor (pageField w) (columnField w)))
    (h5 : opField w = 0x5 → P .sendBuffer)
    (h6 : opField w = 0x6 → P (.fbWrite (offsetField w) (dataField w)))
    (h7 : opField w = 0x7 → P (.fbRead (offsetField w)))
    (h8 : opField w = 0x8 → P (.illegalOp8 (restField w)))
    (h9 : opField w = 0x9 → P (.illegalOp9 (restField w)))
    (hA : opField w = 0xA → P (.illegalOpA (restField w)))
    (hB : opField w = 0xB → P (.illegalOpB (restField w)))
    (hC : opField w = 0xC → P (.illegalOpC (restField w)))
    (hD : opField w = 0xD → P (.illegalOpD (restField w)))
    (hE : opField w = 0xE → P (.illegalOpE (restField w)))
    (hF : opField w = 0xF → P (.illegalOpF (restField w)))
    (h0 : opField w = 0x0 → P (.illegalOp0 (restField w))) : P (selectOp w) := by
  unfold selectOp
  refine ite_of h1 fun n1 => ?_
  refine ite_of h2 fun n2 => ?_
  refine ite_of h3 fun n3 => ?_
  refine ite_of h4 fun n4 => ?_
  refine ite_of h5 fun n5 => ?_
  refine ite_of h6 fun n6 => ?_
  refine ite_of h7 fun n7 => ?_
  refine ite_of h8 fun n8 => ?_
  refine ite_of h9 fun n9 => ?_
  refine ite_of hA fun nA => ?_
  refine ite_of hB fun nB => ?_
  refine ite_of hC fun nC => ?_
  refine ite_of hD fun nD => ?_
  refine ite_of hE fun nE => ?_
  refine ite_of hF fun nF => ?_
  refine h0 ?_
  exact zero_of_not _ n1 n2 n3 n4 n5 n6 n7 n8 n9 nA nB nC nD nE nF

/-- An operation selected by a host word is no wire command. -/
theorem selectOp_isHost (w : Word) : ∃ w', encode (selectOp w) = .host w' := by
  apply selectOp_cases (P := fun i => ∃ w', encode i = .host w') <;> intro _ <;> exact ⟨_, rfl⟩

theorem decodeHost_isHost {w : Word} {i : Instr} (h : decodeHost w = .ok i) : ∃ w', encode i = .host w' := by
  unfold decodeHost at h
  split at h
  · cases h
  · split at h
    · obtain rfl : selectOp w = i := by injection h
      exact selectOp_isHost w
    · cases h

/-! ### Must-be-zero bits (R54) -/

/-- The operation code stands in the top four bits of a host word. -/
theorem opWord_code (op : BitVec 4) (rest : BitVec 28) : opWord op rest &&& 0xF0000000#32 = op.setWidth 32 <<< 28 := by
  refine BitVec.eq_of_getLsbD_eq fun i hi => ?_
  by_cases h : i < 28
  · have hm : (0xF0000000#32).getLsbD i = false := by
      have : ∀ j : Fin 28, (0xF0000000#32).getLsbD j = false := by decide
      exact this ⟨i, h⟩
    simp [h, hm]
  · have hm : (0xF0000000#32).getLsbD i = true := by
      have : ∀ j : Fin 4, (0xF0000000#32).getLsbD (28 + j) = true := by decide
      simpa [show 28 + (i - 28) = i by omega] using this ⟨i - 28, by omega⟩
    rw [BitVec.getLsbD_and, hm]
    simp [opWord, h, hi, BitVec.getLsbD_of_ge rest i (by omega)]

/-- A word clears a mask when its operand bits do and the mask leaves the operation code out. -/
theorem opWord_and (op : BitVec 4) (rest : BitVec 28) (m : Word) (hop : opField m = 0)
    (hr : rest &&& m.setWidth 28 = 0) : opWord op rest &&& m = 0 := by
  refine BitVec.eq_of_getLsbD_eq fun i hi => ?_
  by_cases h : i < 28
  · have hb : (rest &&& m.setWidth 28).getLsbD i = false := by simp [hr]
    simp only [BitVec.getLsbD_and, BitVec.getLsbD_setWidth, h, decide_true, Bool.true_and] at hb
    rw [BitVec.getLsbD_and, show (opWord op rest).getLsbD i = rest.getLsbD i by simp [opWord, h, hi], hb]
    simp
  · have hb : (opField m).getLsbD (i - 28) = false := by simp [hop]
    have hm : m.getLsbD i = false := by
      simpa [opField, show i - 28 < 4 by omega, show 28 + (i - 28) = i by omega] using hb
    simp [hm]

/-- Operand bits that stay below a mask's ones clear the mask. -/
theorem and_mask_eq_zero (rest m : BitVec 28) (h : ∀ i : Fin 28, m.getLsbD i = true → rest.getLsbD i = false) :
    rest &&& m = 0 := by
  refine BitVec.eq_of_getLsbD_eq fun i hi => ?_
  rw [BitVec.getLsbD_and, show (0 : BitVec 28).getLsbD i = false by simp]
  cases hm : m.getLsbD i
  · simp
  · simp [h ⟨i, hi⟩ hm]

theorem value_clear (v : BitVec 16) : v.setWidth 28 &&& (0x0FFF0000 : Word).setWidth 28 = 0 :=
  and_mask_eq_zero _ _ fun i hm => by
    have hi : ∀ i : Fin 28, ((0x0FFF0000 : Word).setWidth 28).getLsbD i = true → 16 ≤ i.val := by decide
    simp [BitVec.getLsbD_of_ge v i (hi i hm)]

theorem flag_clear (f : BitVec 1) : f.setWidth 28 &&& (0x0FFFFFFE : Word).setWidth 28 = 0 :=
  and_mask_eq_zero _ _ fun i hm => by
    have hi : ∀ i : Fin 28, ((0x0FFFFFFE : Word).setWidth 28).getLsbD i = true → 1 ≤ i.val := by decide
    simp [BitVec.getLsbD_of_ge f i (hi i hm)]

theorem overByte_clear_cursor (p c : Byte) :
    overByte (p.setWidth 16) c &&& (0x0FFF0000 : Word).setWidth 28 = 0 :=
  and_mask_eq_zero _ _ fun i hm => by
    have hi : ∀ i : Fin 28, ((0x0FFF0000 : Word).setWidth 28).getLsbD i = true → 16 ≤ i.val := by decide
    have h := hi i hm
    simp [overByte, BitVec.getLsbD_of_ge p (i - 8) (by omega), BitVec.getLsbD_of_ge c i (by omega)]

theorem overByte_clear_write (off : BitVec 16) (d : Byte) :
    overByte off d &&& (0x0F000000 : Word).setWidth 28 = 0 :=
  and_mask_eq_zero _ _ fun i hm => by
    have hi : ∀ i : Fin 28, ((0x0F000000 : Word).setWidth 28).getLsbD i = true → 24 ≤ i.val := by decide
    have h := hi i hm
    simp [overByte, BitVec.getLsbD_of_ge off (i - 8) (by omega), BitVec.getLsbD_of_ge d i (by omega)]

theorem overByte_clear_read (off : BitVec 16) : overByte off 0 &&& (0x0F0000FF : Word).setWidth 28 = 0 :=
  and_mask_eq_zero _ _ fun i hm => by
    have hi : ∀ i : Fin 28, ((0x0F0000FF : Word).setWidth 28).getLsbD i = true → 24 ≤ i.val ∨ i.val < 8 := by decide
    rcases hi i hm with h | h
    · simp [overByte, BitVec.getLsbD_of_ge off (i - 8) (by omega)]
    · simp [overByte, h]

/-! ### Wire commands (R59): the fixed bits and the operand bits of a byte -/

theorem lowNibble_bits (h : BitVec 4) (p : BitVec 4) :
    ((h.setWidth 8 <<< 4) ||| p.setWidth 8 : Byte) &&& 0xF0 = h.setWidth 8 <<< 4
      ∧ ((h.setWidth 8 <<< 4) ||| p.setWidth 8 : Byte).extractLsb' 0 4 = p := by
  revert h p
  decide

theorem flagBit_bits (f : BitVec 1) :
    (0xA6#8 ||| f.setWidth 8) &&& 0xFE = 0xA6 ∧ (0xA6#8 ||| f.setWidth 8).extractLsb' 0 1 = f := by
  revert f
  decide

theorem sixBits_bits (c : BitVec 6) :
    (c.setWidth 8 : Byte) &&& 0xC0 = 0 ∧ (c.setWidth 8 : Byte).extractLsb' 0 6 = c := by
  revert c
  decide

end Sys2Proof
end

