-- ==== Sys2Proof/Laws/Word.lean ====
section
/-! SUPPORT. The two levels of a line. -/

namespace Sys2Proof

@[simp] theorem Level.flip_flip (v : Level) : v.flip.flip = v := by cases v <;> rfl

@[simp] theorem Level.flip_ne (v : Level) : v.flip ≠ v := by cases v <;> decide

@[simp] theorem Level.ne_flip (v : Level) : v ≠ v.flip := by cases v <;> decide

@[simp] theorem Level.flip_beq (v : Level) : (v.flip == v) = false := by cases v <;> decide

end Sys2Proof
end

