-- ==== Sys2Proof/Laws/Framing.lean ====
section
/-! SUPPORT. What the framer's, the cursor's and the session's action lists are made of: their writes, their events, and how the terms of Safety.lean read them. -/

namespace Sys2Proof.Machine

/-! ### Writes and events of lists -/

@[simp] theorem writesOf_nil : writesOf [] = [] := rfl

theorem writesOf_cons (a : Action) (as : List Action) : writesOf (a :: as) = a.write?.toList ++ writesOf as := by
  cases a <;> rfl

@[simp] theorem writesOf_append (as bs : List Action) : writesOf (as ++ bs) = writesOf as ++ writesOf bs := by
  simp [writesOf]

@[simp] theorem writesOf_flatMap {α : Type} (f : α → List Action) (xs : List α) :
    writesOf (xs.flatMap f) = xs.flatMap fun x => writesOf (f x) := by
  induction xs with
  | nil => rfl
  | cons x xs ih => simp [ih]

@[simp] theorem eventsOf_nil (c : Config) : eventsOf c [] = [] := rfl

@[simp] theorem eventsOf_cons (c : Config) (a : Action) (as : List Action) :
    eventsOf c (a :: as) = a.events c ++ eventsOf c as := by simp [eventsOf]

@[simp] theorem eventsOf_append (c : Config) (as bs : List Action) :
    eventsOf c (as ++ bs) = eventsOf c as ++ eventsOf c bs := by simp [eventsOf]

@[simp] theorem eventsOf_flatMap {α : Type} (c : Config) (f : α → List Action) (xs : List α) :
    eventsOf c (xs.flatMap f) = xs.flatMap fun x => eventsOf c (f x) := by
  induction xs with
  | nil => rfl
  | cons x xs ih => simp [ih]

/-! ### The session state a list leaves -/

@[simp] theorem sessAfter_nil (x : Sess) : sessAfter x [] = x := rfl

theorem sessAfter_cons (x : Sess) (a : Action) (as : List Action) :
    sessAfter x (a :: as) = sessAfter (a.sess?.getD x) as := by
  unfold sessAfter
  cases h : a.sess? with
  | none => rw [List.filterMap_cons, h]; rfl
  | some y => rw [List.filterMap_cons, h]; simp only [List.getLastD_cons, Option.getD_some]

theorem sessAfter_append (x : Sess) (as bs : List Action) : sessAfter x (as ++ bs) = sessAfter (sessAfter x as) bs := by
  induction as generalizing x with
  | nil => rfl
  | cons a as ih => rw [List.cons_append, sessAfter_cons, ih, ← sessAfter_cons]

/-! ### One transaction (41_framer.md R72, R73, R74) -/

/-- A transaction is one of the two lists of R72 and R74: six actions with chip-select, three without. -/
theorem frame_eq (c : Config) (cd : Level) (bs : List Byte) :
    frame c cd bs =
      if c.hasCs then
        [.busConfig, .lineSet .cs c.csDeassert, .lineSet .cd cd, .lineSet .cs c.csAssert, .busWrite bs,
          .lineSet .cs c.csDeassert]
      else [.busConfig, .lineSet .cd cd, .busWrite bs] := by
  cases h : c.hasCs <;> simp [frame, csStep, h]

/-- A transaction makes one write. -/
@[simp] theorem writesOf_frame (c : Config) (cd : Level) (bs : List Byte) : writesOf (frame c cd bs) = [bs] := by
  rw [frame_eq]
  split <;> rfl

@[simp] theorem writesOf_frameCmd (c : Config) (bs : List Byte) : writesOf (frameCmd c bs) = [bs] := writesOf_frame ..

@[simp] theorem writesOf_frameData (c : Config) (bs : List Byte) : writesOf (frameData c bs) = [bs] := writesOf_frame ..

@[simp] theorem frame_length (c : Config) (cd : Level) (bs : List Byte) :
    (eventsOf c (frame c cd bs)).length = if c.hasCs then 6 else 3 := by
  rw [frame_eq]
  split <;> rfl

@[simp] theorem frameCmd_length (c : Config) (bs : List Byte) :
    (eventsOf c (frameCmd c bs)).length = if c.hasCs then 6 else 3 := frame_length ..

@[simp] theorem frameData_length (c : Config) (bs : List Byte) :
    (eventsOf c (frameData c bs)).length = if c.hasCs then 6 else 3 := frame_length ..

/-- A transaction does not set the session state. -/
@[simp] theorem sessionPath_frame (c : Config) (cd : Level) (bs : List Byte) (x : Sess) (rest : List Action) :
    sessionPath x (frame c cd bs ++ rest) = sessionPath x rest := by
  rw [frame_eq]
  split <;> simp [sessionPath]

@[simp] theorem sessAfter_frame (c : Config) (cd : Level) (bs : List Byte) (x : Sess) :
    sessAfter x (frame c cd bs) = x := by
  rw [frame_eq]
  split <;> rfl

/-- A transaction begun with chip-select deasserted is whole when its one write may be made at its level. -/
@[simp] theorem framedFrom_frame (c : Config) (k : Bool) (cd₀ : PinLevel) (cd : Level) (bs : List Byte)
    (rest : List Action) :
    framedFrom c k false cd₀ (frame c cd bs ++ rest)
      = (writeAllowed c c.hasCs (.driven cd) bs && framedFrom c false false (.driven cd) rest) := by
  rw [frame_eq]
  cases h : c.hasCs <;> simp [framedFrom, writeAllowed, h, Config.csAssert, Config.csDeassert]

/-- The actions of a transaction name only lines the configuration has. -/
theorem frame_linesPresent (c : Config) (cd : Level) (bs : List Byte) :
    ∀ a ∈ frame c cd bs, ∀ l, a.line? = some l → hasLine c l = true := by
  rw [frame_eq]
  split <;> simp_all [Action.line?, hasLine]

/-- A transaction holds no delay. -/
theorem frame_noWait (c : Config) (cd : Level) (bs : List Byte) (ms : Nat) : Action.wait ms ∉ frame c cd bs := by
  rw [frame_eq]
  split <;> simp

/-! ### The lists of the operations -/

@[simp] theorem writesOf_cursor (c : Config) (p col : Byte) :
    writesOf (cursor c p col) = [[pageByte p], [columnLowByte col], [columnHighByte col]] := by
  simp [cursor]

@[simp] theorem writesOf_resetPulse (c : Config) : writesOf (resetPulse c) = [] := by
  unfold resetPulse
  split <;> rfl

@[simp] theorem writesOf_lineConfigOf (c : Config) (l : Line) : writesOf (lineConfigOf c l) = [] := by
  cases l <;> simp only [lineConfigOf]
  · split <;> rfl
  · split <;> rfl
  · rfl

@[simp] theorem writesOf_setSess (x : Sess) : writesOf [.setSess x] = [] := rfl

@[simp] theorem cursor_length (c : Config) (p col : Byte) :
    (eventsOf c (cursor c p col)).length = 3 * if c.hasCs then 6 else 3 := by
  simp only [cursor, eventsOf_append, List.length_append, frameCmd_length]
  omega

/-- The writes of one page of a transfer. -/
@[simp] theorem writesOf_pageActions (c : Config) (slice : Nat → Nat → List Byte) (p : Nat) :
    writesOf (pageActions c slice p)
      = [[pageByte (BitVec.ofNat 8 p)], [columnLowByte 0], [columnHighByte 0], slice (p * width) width] := by
  simp [pageActions]

end Sys2Proof.Machine
end

