-- ==== Sys2Proof/Laws/Memory.lean ====
section
/-! SUPPORT. The pixel buffer: every operation keeps its one form, a read after a write gives the value written, and a write leaves every other byte alone. -/

namespace Sys2Proof.Machine

/-! ### The form -/

@[simp] theorem Memory.ofFn_wf (f : Nat → Byte) : (Memory.ofFn f).wf := by
  simp [Memory.wf, Memory.ofFn, Function.comp_def, List.range_eq_range']

/-- The offsets of a buffer in its one form rise strictly. -/
theorem Memory.wf_rising {m : Memory} (h : m.wf) : (m.map Prod.fst).Pairwise (· < ·) := by
  rw [show m.map Prod.fst = List.range fbSize from h]
  exact List.pairwise_lt_range

@[simp] theorem Memory.wf_length {m : Memory} (h : m.wf) : m.length = fbSize := by
  simpa using congrArg List.length h

@[simp] theorem Memory.put_keys (m : Memory) (a : Nat) (d : Byte) : (m.put a d).map Prod.fst = m.map Prod.fst := by
  rw [Memory.put, List.map_map]
  refine List.map_congr_left fun cell _ => ?_
  by_cases h : cell.1 = a <;> simp [h]

theorem Memory.put_wf {m : Memory} (h : m.wf) (a : Nat) (d : Byte) : (m.put a d).wf := by
  simpa [Memory.wf] using h

/-- A write keeps the buffer's one form. -/
theorem Memory.write_wf {m m' : Memory} {a : Nat} {d : Byte} (h : m.wf) (hw : m.write a d = some m') : m'.wf := by
  unfold Memory.write at hw
  split at hw
  · obtain rfl : m.put a d = m' := by simpa using hw
    exact put_wf h a d
  · simp at hw

/-! ### Reading -/

/-- A byte is read exactly where an offset is listed. -/
theorem Memory.read_isSome_iff (m : Memory) (a : Nat) : (m.read a).isSome ↔ a ∈ m.map Prod.fst := by
  induction m with
  | nil => simp [Memory.read]
  | cons cell m ih =>
    obtain ⟨k, b⟩ := cell
    by_cases h : k = a
    · simp [Memory.read, h]
    · simp [Memory.read, h, ih, Ne.symm h]

/-- A buffer in its one form has a byte at exactly the offsets below 1024 (20_memory.md R32). -/
theorem Memory.read_isSome {m : Memory} (h : m.wf) (a : Nat) : (m.read a).isSome ↔ a < fbSize := by
  rw [read_isSome_iff, show m.map Prod.fst = List.range fbSize from h, List.mem_range]

theorem Memory.read_some {m : Memory} (h : m.wf) {a : Nat} (ha : a < fbSize) : ∃ b, m.read a = some b :=
  Option.isSome_iff_exists.mp ((read_isSome h a).mpr ha)

theorem Memory.read_none {m : Memory} (h : m.wf) {a : Nat} (ha : fbSize ≤ a) : m.read a = none := by
  have := (read_isSome h a).not.mpr (by omega)
  simpa using this

/-- The byte listed at an offset is the byte read there, in any list whose offsets rise. -/
theorem Memory.read_of_mem {m : Memory} (h : (m.map Prod.fst).Pairwise (· < ·)) {a : Nat} {b : Byte}
    (hm : (a, b) ∈ m) : m.read a = some b := by
  induction m with
  | nil => simp at hm
  | cons cell m ih =>
    obtain ⟨k, x⟩ := cell
    rw [List.map_cons, List.pairwise_cons] at h
    rcases List.mem_cons.mp hm with heq | hin
    · obtain ⟨rfl, rfl⟩ := Prod.mk.inj heq
      simp [Memory.read]
    · have hlt : k < a := h.1 a (List.mem_map.mpr ⟨_, hin, rfl⟩)
      rw [Memory.read, if_neg (by omega)]
      exact ih h.2 hin

@[simp] theorem Memory.read_ofFn (f : Nat → Byte) {a : Nat} (ha : a < fbSize) : (Memory.ofFn f).read a = some (f a) :=
  read_of_mem (wf_rising (ofFn_wf f)) (by simpa [Memory.ofFn] using ha)

/-! ### Writing -/

theorem Memory.read_put_same {m : Memory} {a : Nat} {b : Byte} (h : m.read a = some b) (d : Byte) :
    (m.put a d).read a = some d := by
  induction m with
  | nil => simp [Memory.read] at h
  | cons cell m ih =>
    obtain ⟨k, x⟩ := cell
    by_cases hk : k = a
    · simp [Memory.put, Memory.read, hk]
    · simp only [Memory.read, if_neg hk] at h
      simpa [Memory.put, Memory.read, hk] using ih h

theorem Memory.read_put_other (m : Memory) {a a' : Nat} (hne : a' ≠ a) (d : Byte) :
    (m.put a d).read a' = m.read a' := by
  induction m with
  | nil => rfl
  | cons cell m ih =>
    obtain ⟨k, x⟩ := cell
    have ih' : Memory.read (List.map (fun cell => if cell.1 = a then (a, d) else cell) m) a' = Memory.read m a' := ih
    by_cases hk : k = a
    · simp [Memory.put, Memory.read, hk, Ne.symm hne, ih']
    · simp [Memory.put, Memory.read, hk, ih']

/-- What a write does: it needs a byte at the offset, and replaces that byte alone. -/
theorem Memory.write_eq_some {m m' : Memory} {a : Nat} {d : Byte} :
    m.write a d = some m' ↔ (m.read a).isSome ∧ m' = m.put a d := by
  unfold Memory.write
  cases h : m.read a <;> simp [eq_comm]

theorem Memory.write_complete {m : Memory} (h : m.wf) {a : Nat} (ha : a < fbSize) (d : Byte) :
    m.write a d = some (m.put a d) :=
  write_eq_some.mpr ⟨(read_isSome h a).mpr ha, rfl⟩

theorem Memory.write_none {m : Memory} (h : m.wf) {a : Nat} (ha : fbSize ≤ a) (d : Byte) : m.write a d = none := by
  simp [Memory.write, read_none h ha]

/-- A read after a write. -/
theorem Memory.read_write {m m' : Memory} {a : Nat} {d : Byte} (hw : m.write a d = some m') (a' : Nat) :
    m'.read a' = if a' = a then some d else m.read a' := by
  obtain ⟨hs, rfl⟩ := write_eq_some.mp hw
  obtain ⟨b, hb⟩ := Option.isSome_iff_exists.mp hs
  split
  · next h => rw [h, read_put_same hb]
  · next h => exact read_put_other m h d

/-! ### Slices (00_scope.md R11) -/

theorem Memory.slice_length {m : Memory} (h : m.wf) {start n : Nat} (hn : start + n ≤ fbSize) :
    (m.slice start n).length = n := by
  simp [Memory.slice, wf_length h]
  omega

/-- The cell at a position of a buffer in its one form is the byte of that offset. -/
theorem Memory.getElem_fst {m : Memory} (h : m.wf) {i : Nat} (hi : i < m.length) : m[i].1 = i := by
  have hk : (m.map Prod.fst)[i]? = (List.range fbSize)[i]? := by rw [show m.map Prod.fst = List.range fbSize from h]
  have hlen : i < fbSize := by rw [← wf_length h]; exact hi
  simpa [List.getElem?_eq_getElem hi, hlen] using hk

theorem Memory.read_getElem {m : Memory} (h : m.wf) {i : Nat} (hi : i < m.length) : m.read i = some m[i].2 := by
  refine read_of_mem (wf_rising h) ?_
  have hm : m[i] ∈ m := List.getElem_mem hi
  rwa [show m[i] = (i, m[i].2) from Prod.ext (getElem_fst h hi) rfl] at hm

/-- Byte `k` of a slice is `FB[start + k]`. -/
theorem Memory.slice_getElem? {m : Memory} (h : m.wf) {start n k : Nat} (hk : k < n) (hn : start + n ≤ fbSize) :
    (m.slice start n)[k]? = m.read (start + k) := by
  have hi : start + k < m.length := by rw [wf_length h]; omega
  rw [read_getElem h hi]
  simp [Memory.slice, hk, List.getElem?_drop, List.getElem?_eq_getElem hi]

/-- The eight page slices, one after another, are the whole buffer (20_memory.md R38). -/
theorem Memory.slice_append (m : Memory) (start n n' : Nat) :
    m.slice start n ++ m.slice (start + n) n' = m.slice start (n + n') := by
  simp only [Memory.slice, ← List.map_append]
  rw [Nat.add_comm start n, ← List.drop_drop, List.take_add]
  simp [List.drop_drop, Nat.add_comm]

end Sys2Proof.Machine
end

