-- ==== Sys2Proof/Laws/Operands.lean ====
section
/-! SUPPORT. The bytes that operand arithmetic computes are the wire commands of 30_encoding.md R59, with the operand bits the rules name. -/

namespace Sys2Proof.Machine

theorem pageByte_wire (p : Byte) : (Instr.w14PageAddress (p.extractLsb' 0 4)).wireBytes = [pageByte p] := by
  revert p
  decide +kernel

theorem columnLowByte_wire (c : Byte) : (Instr.w15ColumnLow (c.extractLsb' 0 4)).wireBytes = [columnLowByte c] := by
  revert c
  decide +kernel

theorem columnHighByte_wire (c : Byte) : (Instr.w16ColumnHigh (c.extractLsb' 4 4)).wireBytes = [columnHighByte c] := by
  revert c
  decide +kernel

theorem inverseByte_wire (f : BitVec 1) : (Instr.w6InverseDisplay f).wireBytes = [inverseByte f] := by
  revert f
  decide

/-- "Only V[7:2] reaches the wire" (42_session.md R83). -/
theorem contrastByte_eq (v : BitVec 16) : contrastByte v = (v.extractLsb' 2 6).setWidth 8 := by
  have hmask : ∀ j : Fin 16, (0x3F#16).getLsbD j = decide (j.val < 6) := by decide
  refine BitVec.eq_of_getLsbD_eq fun i hi => ?_
  unfold contrastByte
  rw [BitVec.getLsbD_setWidth, BitVec.getLsbD_and, hmask ⟨i, by omega⟩]
  by_cases h : i < 6 <;> simp [h, hi]

theorem contrastByte_wire (v : BitVec 16) : (Instr.w11Contrast (v.extractLsb' 2 6)).wireBytes = [0x81, contrastByte v] := by
  rw [contrastByte_eq]
  rfl

/-- The encoding of a wire command is one wire command. -/
theorem wire_decodes : ∀ i : Instr, i.wireBytes ≠ [] → decodeTransaction i.wireBytes = .ok i := by
  have flag : ∀ f : BitVec 1, decodeTransaction (Instr.w6InverseDisplay f).wireBytes = .ok (.w6InverseDisplay f) := by
    decide +kernel
  have six : ∀ c : BitVec 6, decodeTransaction (Instr.w11Contrast c).wireBytes = .ok (.w11Contrast c) := by
    decide +kernel
  have page : ∀ p : BitVec 4, decodeTransaction (Instr.w14PageAddress p).wireBytes = .ok (.w14PageAddress p) := by
    decide +kernel
  have low : ∀ c : BitVec 4, decodeTransaction (Instr.w15ColumnLow c).wireBytes = .ok (.w15ColumnLow c) := by
    decide +kernel
  have high : ∀ c : BitVec 4, decodeTransaction (Instr.w16ColumnHigh c).wireBytes = .ok (.w16ColumnHigh c) := by
    decide +kernel
  intro i h
  cases i with
  | w6InverseDisplay f => exact flag f
  | w11Contrast c => exact six c
  | w14PageAddress p => exact page p
  | w15ColumnLow c => exact low c
  | w16ColumnHigh c => exact high c
  | init | setContrast | setInverse | setCursor | sendBuffer | fbWrite | fbRead => exact absurd rfl h
  | illegalOp0 | illegalOp8 | illegalOp9 | illegalOpA | illegalOpB | illegalOpC | illegalOpD | illegalOpE
  | illegalOpF => exact absurd rfl h
  | _ => decide +kernel

theorem oneWireCommand_of_wire {i : Instr} {bs : List Byte} (h : i.wireBytes = bs) (hne : bs ≠ []) :
    oneWireCommand bs = true := by
  subst h
  rw [oneWireCommand, wire_decodes i hne]

@[simp] theorem oneWireCommand_page (p : Byte) : oneWireCommand [pageByte p] = true :=
  oneWireCommand_of_wire (pageByte_wire p) (by simp)

@[simp] theorem oneWireCommand_columnLow (c : Byte) : oneWireCommand [columnLowByte c] = true :=
  oneWireCommand_of_wire (columnLowByte_wire c) (by simp)

@[simp] theorem oneWireCommand_columnHigh (c : Byte) : oneWireCommand [columnHighByte c] = true :=
  oneWireCommand_of_wire (columnHighByte_wire c) (by simp)

@[simp] theorem oneWireCommand_inverse (f : BitVec 1) : oneWireCommand [inverseByte f] = true :=
  oneWireCommand_of_wire (inverseByte_wire f) (by simp)

@[simp] theorem oneWireCommand_contrast (v : BitVec 16) : oneWireCommand [0x81#8, contrastByte v] = true :=
  oneWireCommand_of_wire (contrastByte_wire v) (by simp)

end Sys2Proof.Machine
end

