-- ==== Sys2Proof/Laws/State.lean ====
section
/-! SUPPORT. What each update of the state leaves in each field, so that no later proof unfolds a record update. -/

namespace Sys2Proof.Machine

variable (s : State)

/-! ### `emit` -/

@[simp] theorem State.emit_cfg (e : Event) : (s.emit e).cfg = s.cfg := rfl
@[simp] theorem State.emit_fb (e : Event) : (s.emit e).fb = s.fb := rfl
@[simp] theorem State.emit_sess (e : Event) : (s.emit e).sess = s.sess := rfl
@[simp] theorem State.emit_busy (e : Event) : (s.emit e).busy = s.busy := rfl
@[simp] theorem State.emit_faultCode (e : Event) : (s.emit e).faultCode = s.faultCode := rfl
@[simp] theorem State.emit_faultInfo (e : Event) : (s.emit e).faultInfo = s.faultInfo := rfl
@[simp] theorem State.emit_curOp (e : Event) : (s.emit e).curOp = s.curOp := rfl
@[simp] theorem State.emit_fromHost (e : Event) : (s.emit e).fromHost = s.fromHost := rfl
@[simp] theorem State.emit_seq (e : Event) : (s.emit e).seq = s.seq := rfl
@[simp] theorem State.emit_pending (e : Event) : (s.emit e).pending = s.pending := rfl
@[simp] theorem State.emit_resp (e : Event) : (s.emit e).resp = s.resp := rfl
@[simp] theorem State.emit_lvlRst (e : Event) : (s.emit e).lvlRst = s.lvlRst := rfl
@[simp] theorem State.emit_lvlCs (e : Event) : (s.emit e).lvlCs = s.lvlCs := rfl
@[simp] theorem State.emit_lvlCd (e : Event) : (s.emit e).lvlCd = s.lvlCd := rfl
@[simp] theorem State.emit_clockRate (e : Event) : (s.emit e).clockRate = s.clockRate := rfl
@[simp] theorem State.emit_trace (e : Event) : (s.emit e).trace = s.trace ++ [e] := rfl
@[simp] theorem State.emit_responses (e : Event) : (s.emit e).responses = s.responses := rfl
@[simp] theorem State.emit_hostWords (e : Event) : (s.emit e).hostWords = s.hostWords := rfl
@[simp] theorem State.emit_answers (e : Event) : (s.emit e).answers = s.answers := rfl
@[simp] theorem State.emit_rstN (e : Event) : (s.emit e).rstN = s.rstN := rfl
@[simp] theorem State.emit_resets (e : Event) : (s.emit e).resets = s.resets := rfl

/-! ### `respond` -/

@[simp] theorem State.respond_cfg (r : Response) : (s.respond r).cfg = s.cfg := rfl
@[simp] theorem State.respond_fb (r : Response) : (s.respond r).fb = s.fb := rfl
@[simp] theorem State.respond_sess (r : Response) : (s.respond r).sess = s.sess := rfl
@[simp] theorem State.respond_busy (r : Response) : (s.respond r).busy = s.busy := rfl
@[simp] theorem State.respond_faultCode (r : Response) : (s.respond r).faultCode = s.faultCode := rfl
@[simp] theorem State.respond_faultInfo (r : Response) : (s.respond r).faultInfo = s.faultInfo := rfl
@[simp] theorem State.respond_curOp (r : Response) : (s.respond r).curOp = s.curOp := rfl
@[simp] theorem State.respond_fromHost (r : Response) : (s.respond r).fromHost = s.fromHost := rfl
@[simp] theorem State.respond_seq (r : Response) : (s.respond r).seq = s.seq := rfl
@[simp] theorem State.respond_pending (r : Response) : (s.respond r).pending = s.pending := rfl
@[simp] theorem State.respond_resp (r : Response) : (s.respond r).resp = s.resp := rfl
@[simp] theorem State.respond_lvlRst (r : Response) : (s.respond r).lvlRst = s.lvlRst := rfl
@[simp] theorem State.respond_lvlCs (r : Response) : (s.respond r).lvlCs = s.lvlCs := rfl
@[simp] theorem State.respond_lvlCd (r : Response) : (s.respond r).lvlCd = s.lvlCd := rfl
@[simp] theorem State.respond_clockRate (r : Response) : (s.respond r).clockRate = s.clockRate := rfl
@[simp] theorem State.respond_trace (r : Response) : (s.respond r).trace = s.trace := rfl
@[simp] theorem State.respond_responses (r : Response) : (s.respond r).responses = s.responses ++ [r] := rfl
@[simp] theorem State.respond_hostWords (r : Response) : (s.respond r).hostWords = s.hostWords := rfl
@[simp] theorem State.respond_answers (r : Response) : (s.respond r).answers = s.answers := rfl
@[simp] theorem State.respond_rstN (r : Response) : (s.respond r).rstN = s.rstN := rfl
@[simp] theorem State.respond_resets (r : Response) : (s.respond r).resets = s.resets := rfl

/-! ### `respondToHost` -/

@[simp] theorem State.respondToHost_cfg (r : Response) : (s.respondToHost r).cfg = s.cfg := by unfold State.respondToHost; split <;> rfl
@[simp] theorem State.respondToHost_fb (r : Response) : (s.respondToHost r).fb = s.fb := by unfold State.respondToHost; split <;> rfl
@[simp] theorem State.respondToHost_sess (r : Response) : (s.respondToHost r).sess = s.sess := by unfold State.respondToHost; split <;> rfl
@[simp] theorem State.respondToHost_busy (r : Response) : (s.respondToHost r).busy = s.busy := by unfold State.respondToHost; split <;> rfl
@[simp] theorem State.respondToHost_faultCode (r : Response) : (s.respondToHost r).faultCode = s.faultCode := by unfold State.respondToHost; split <;> rfl
@[simp] theorem State.respondToHost_faultInfo (r : Response) : (s.respondToHost r).faultInfo = s.faultInfo := by unfold State.respondToHost; split <;> rfl
@[simp] theorem State.respondToHost_curOp (r : Response) : (s.respondToHost r).curOp = s.curOp := by unfold State.respondToHost; split <;> rfl
@[simp] theorem State.respondToHost_fromHost (r : Response) : (s.respondToHost r).fromHost = s.fromHost := by unfold State.respondToHost; split <;> rfl
@[simp] theorem State.respondToHost_seq (r : Response) : (s.respondToHost r).seq = s.seq := by unfold State.respondToHost; split <;> rfl
@[simp] theorem State.respondToHost_pending (r : Response) : (s.respondToHost r).pending = s.pending := by unfold State.respondToHost; split <;> rfl
@[simp] theorem State.respondToHost_resp (r : Response) : (s.respondToHost r).resp = s.resp := by unfold State.respondToHost; split <;> rfl
@[simp] theorem State.respondToHost_lvlRst (r : Response) : (s.respondToHost r).lvlRst = s.lvlRst := by unfold State.respondToHost; split <;> rfl
@[simp] theorem State.respondToHost_lvlCs (r : Response) : (s.respondToHost r).lvlCs = s.lvlCs := by unfold State.respondToHost; split <;> rfl
@[simp] theorem State.respondToHost_lvlCd (r : Response) : (s.respondToHost r).lvlCd = s.lvlCd := by unfold State.respondToHost; split <;> rfl
@[simp] theorem State.respondToHost_clockRate (r : Response) : (s.respondToHost r).clockRate = s.clockRate := by unfold State.respondToHost; split <;> rfl
@[simp] theorem State.respondToHost_trace (r : Response) : (s.respondToHost r).trace = s.trace := by unfold State.respondToHost; split <;> rfl
@[simp] theorem State.respondToHost_responses (r : Response) : (s.respondToHost r).responses = if s.fromHost then s.responses ++ [r] else s.responses := by unfold State.respondToHost; split <;> rfl
@[simp] theorem State.respondToHost_hostWords (r : Response) : (s.respondToHost r).hostWords = s.hostWords := by unfold State.respondToHost; split <;> rfl
@[simp] theorem State.respondToHost_answers (r : Response) : (s.respondToHost r).answers = s.answers := by unfold State.respondToHost; split <;> rfl
@[simp] theorem State.respondToHost_rstN (r : Response) : (s.respondToHost r).rstN = s.rstN := by unfold State.respondToHost; split <;> rfl
@[simp] theorem State.respondToHost_resets (r : Response) : (s.respondToHost r).resets = s.resets := by unfold State.respondToHost; split <;> rfl

/-! ### `enterFault` -/

@[simp] theorem State.enterFault_cfg (c : FaultCode) (w : Word) : (s.enterFault c w).cfg = s.cfg := rfl
@[simp] theorem State.enterFault_fb (c : FaultCode) (w : Word) : (s.enterFault c w).fb = s.fb := rfl
@[simp] theorem State.enterFault_sess (c : FaultCode) (w : Word) : (s.enterFault c w).sess = .faulted := rfl
@[simp] theorem State.enterFault_busy (c : FaultCode) (w : Word) : (s.enterFault c w).busy = false := rfl
@[simp] theorem State.enterFault_faultCode (c : FaultCode) (w : Word) : (s.enterFault c w).faultCode = c := rfl
@[simp] theorem State.enterFault_faultInfo (c : FaultCode) (w : Word) : (s.enterFault c w).faultInfo = w := rfl
@[simp] theorem State.enterFault_curOp (c : FaultCode) (w : Word) : (s.enterFault c w).curOp = s.curOp := rfl
@[simp] theorem State.enterFault_fromHost (c : FaultCode) (w : Word) : (s.enterFault c w).fromHost = s.fromHost := rfl
@[simp] theorem State.enterFault_seq (c : FaultCode) (w : Word) : (s.enterFault c w).seq = [] := rfl
@[simp] theorem State.enterFault_pending (c : FaultCode) (w : Word) : (s.enterFault c w).pending = .none := rfl
@[simp] theorem State.enterFault_resp (c : FaultCode) (w : Word) : (s.enterFault c w).resp = s.resp := rfl
@[simp] theorem State.enterFault_lvlRst (c : FaultCode) (w : Word) : (s.enterFault c w).lvlRst = s.lvlRst := rfl
@[simp] theorem State.enterFault_lvlCs (c : FaultCode) (w : Word) : (s.enterFault c w).lvlCs = s.lvlCs := rfl
@[simp] theorem State.enterFault_lvlCd (c : FaultCode) (w : Word) : (s.enterFault c w).lvlCd = s.lvlCd := rfl
@[simp] theorem State.enterFault_clockRate (c : FaultCode) (w : Word) : (s.enterFault c w).clockRate = s.clockRate := rfl
@[simp] theorem State.enterFault_trace (c : FaultCode) (w : Word) : (s.enterFault c w).trace = s.trace := rfl
@[simp] theorem State.enterFault_responses (c : FaultCode) (w : Word) : (s.enterFault c w).responses = s.responses := rfl
@[simp] theorem State.enterFault_hostWords (c : FaultCode) (w : Word) : (s.enterFault c w).hostWords = s.hostWords := rfl
@[simp] theorem State.enterFault_answers (c : FaultCode) (w : Word) : (s.enterFault c w).answers = s.answers := rfl
@[simp] theorem State.enterFault_rstN (c : FaultCode) (w : Word) : (s.enterFault c w).rstN = s.rstN := rfl
@[simp] theorem State.enterFault_resets (c : FaultCode) (w : Word) : (s.enterFault c w).resets = s.resets := rfl

/-! ### `raiseFault` -/

@[simp] theorem State.raiseFault_cfg (c : FaultCode) (w : Word) : (s.raiseFault c w).cfg = s.cfg := by simp [State.raiseFault, State.enterFault]
@[simp] theorem State.raiseFault_fb (c : FaultCode) (w : Word) : (s.raiseFault c w).fb = s.fb := by simp [State.raiseFault, State.enterFault]
@[simp] theorem State.raiseFault_sess (c : FaultCode) (w : Word) : (s.raiseFault c w).sess = .faulted := by simp [State.raiseFault, State.enterFault]
@[simp] theorem State.raiseFault_busy (c : FaultCode) (w : Word) : (s.raiseFault c w).busy = false := by simp [State.raiseFault, State.enterFault]
@[simp] theorem State.raiseFault_faultCode (c : FaultCode) (w : Word) : (s.raiseFault c w).faultCode = c := by simp [State.raiseFault, State.enterFault]
@[simp] theorem State.raiseFault_faultInfo (c : FaultCode) (w : Word) : (s.raiseFault c w).faultInfo = w := by simp [State.raiseFault, State.enterFault]
@[simp] theorem State.raiseFault_curOp (c : FaultCode) (w : Word) : (s.raiseFault c w).curOp = s.curOp := by simp [State.raiseFault, State.enterFault]
@[simp] theorem State.raiseFault_fromHost (c : FaultCode) (w : Word) : (s.raiseFault c w).fromHost = s.fromHost := by simp [State.raiseFault, State.enterFault]
@[simp] theorem State.raiseFault_seq (c : FaultCode) (w : Word) : (s.raiseFault c w).seq = [] := by simp [State.raiseFault, State.enterFault]
@[simp] theorem State.raiseFault_pending (c : FaultCode) (w : Word) : (s.raiseFault c w).pending = .none := by simp [State.raiseFault, State.enterFault]
@[simp] theorem State.raiseFault_resp (c : FaultCode) (w : Word) : (s.raiseFault c w).resp = s.resp := by simp [State.raiseFault, State.enterFault]
@[simp] theorem State.raiseFault_lvlRst (c : FaultCode) (w : Word) : (s.raiseFault c w).lvlRst = s.lvlRst := by simp [State.raiseFault, State.enterFault]
@[simp] theorem State.raiseFault_lvlCs (c : FaultCode) (w : Word) : (s.raiseFault c w).lvlCs = s.lvlCs := by simp [State.raiseFault, State.enterFault]
@[simp] theorem State.raiseFault_lvlCd (c : FaultCode) (w : Word) : (s.raiseFault c w).lvlCd = s.lvlCd := by simp [State.raiseFault, State.enterFault]
@[simp] theorem State.raiseFault_clockRate (c : FaultCode) (w : Word) : (s.raiseFault c w).clockRate = s.clockRate := by simp [State.raiseFault, State.enterFault]
@[simp] theorem State.raiseFault_trace (c : FaultCode) (w : Word) : (s.raiseFault c w).trace = s.trace := by simp [State.raiseFault, State.enterFault]
@[simp] theorem State.raiseFault_responses (c : FaultCode) (w : Word) : (s.raiseFault c w).responses = if s.fromHost then s.responses ++ [.fault c] else s.responses := by simp [State.raiseFault, State.enterFault]
@[simp] theorem State.raiseFault_hostWords (c : FaultCode) (w : Word) : (s.raiseFault c w).hostWords = s.hostWords := by simp [State.raiseFault, State.enterFault]
@[simp] theorem State.raiseFault_answers (c : FaultCode) (w : Word) : (s.raiseFault c w).answers = s.answers := by simp [State.raiseFault, State.enterFault]
@[simp] theorem State.raiseFault_rstN (c : FaultCode) (w : Word) : (s.raiseFault c w).rstN = s.rstN := by simp [State.raiseFault, State.enterFault]
@[simp] theorem State.raiseFault_resets (c : FaultCode) (w : Word) : (s.raiseFault c w).resets = s.resets := by simp [State.raiseFault, State.enterFault]

/-! ### `load` -/

@[simp] theorem State.load_cfg (as : List Action) (r : Resp) : (s.load as r).cfg = s.cfg := rfl
@[simp] theorem State.load_fb (as : List Action) (r : Resp) : (s.load as r).fb = s.fb := rfl
@[simp] theorem State.load_sess (as : List Action) (r : Resp) : (s.load as r).sess = s.sess := rfl
@[simp] theorem State.load_busy (as : List Action) (r : Resp) : (s.load as r).busy = s.busy := rfl
@[simp] theorem State.load_faultCode (as : List Action) (r : Resp) : (s.load as r).faultCode = s.faultCode := rfl
@[simp] theorem State.load_faultInfo (as : List Action) (r : Resp) : (s.load as r).faultInfo = s.faultInfo := rfl
@[simp] theorem State.load_curOp (as : List Action) (r : Resp) : (s.load as r).curOp = s.curOp := rfl
@[simp] theorem State.load_fromHost (as : List Action) (r : Resp) : (s.load as r).fromHost = s.fromHost := rfl
@[simp] theorem State.load_seq (as : List Action) (r : Resp) : (s.load as r).seq = as := rfl
@[simp] theorem State.load_pending (as : List Action) (r : Resp) : (s.load as r).pending = s.pending := rfl
@[simp] theorem State.load_resp (as : List Action) (r : Resp) : (s.load as r).resp = r := rfl
@[simp] theorem State.load_lvlRst (as : List Action) (r : Resp) : (s.load as r).lvlRst = s.lvlRst := rfl
@[simp] theorem State.load_lvlCs (as : List Action) (r : Resp) : (s.load as r).lvlCs = s.lvlCs := rfl
@[simp] theorem State.load_lvlCd (as : List Action) (r : Resp) : (s.load as r).lvlCd = s.lvlCd := rfl
@[simp] theorem State.load_clockRate (as : List Action) (r : Resp) : (s.load as r).clockRate = s.clockRate := rfl
@[simp] theorem State.load_trace (as : List Action) (r : Resp) : (s.load as r).trace = s.trace := rfl
@[simp] theorem State.load_responses (as : List Action) (r : Resp) : (s.load as r).responses = s.responses := rfl
@[simp] theorem State.load_hostWords (as : List Action) (r : Resp) : (s.load as r).hostWords = s.hostWords := rfl
@[simp] theorem State.load_answers (as : List Action) (r : Resp) : (s.load as r).answers = s.answers := rfl
@[simp] theorem State.load_rstN (as : List Action) (r : Resp) : (s.load as r).rstN = s.rstN := rfl
@[simp] theorem State.load_resets (as : List Action) (r : Resp) : (s.load as r).resets = s.resets := rfl

/-! ### `complete` -/

@[simp] theorem State.complete_cfg : s.complete.cfg = s.cfg := by simp [State.complete]
@[simp] theorem State.complete_fb : s.complete.fb = s.fb := by simp [State.complete]
@[simp] theorem State.complete_sess : s.complete.sess = s.sess := by simp [State.complete]
@[simp] theorem State.complete_busy : s.complete.busy = false := by simp [State.complete]
@[simp] theorem State.complete_faultCode : s.complete.faultCode = s.faultCode := by simp [State.complete]
@[simp] theorem State.complete_faultInfo : s.complete.faultInfo = s.faultInfo := by simp [State.complete]
@[simp] theorem State.complete_curOp : s.complete.curOp = s.curOp := by simp [State.complete]
@[simp] theorem State.complete_fromHost : s.complete.fromHost = s.fromHost := by simp [State.complete]
@[simp] theorem State.complete_seq : s.complete.seq = s.seq := by simp [State.complete]
@[simp] theorem State.complete_pending : s.complete.pending = s.pending := by simp [State.complete]
@[simp] theorem State.complete_resp : s.complete.resp = s.resp := by simp [State.complete]
@[simp] theorem State.complete_lvlRst : s.complete.lvlRst = s.lvlRst := by simp [State.complete]
@[simp] theorem State.complete_lvlCs : s.complete.lvlCs = s.lvlCs := by simp [State.complete]
@[simp] theorem State.complete_lvlCd : s.complete.lvlCd = s.lvlCd := by simp [State.complete]
@[simp] theorem State.complete_clockRate : s.complete.clockRate = s.clockRate := by simp [State.complete]
@[simp] theorem State.complete_trace : s.complete.trace = s.trace := by simp [State.complete]
@[simp] theorem State.complete_responses : s.complete.responses = if s.fromHost then s.responses ++ [s.resp.response] else s.responses := by simp [State.complete]
@[simp] theorem State.complete_hostWords : s.complete.hostWords = s.hostWords := by simp [State.complete]
@[simp] theorem State.complete_answers : s.complete.answers = s.answers := by simp [State.complete]
@[simp] theorem State.complete_rstN : s.complete.rstN = s.rstN := by simp [State.complete]
@[simp] theorem State.complete_resets : s.complete.resets = s.resets := by simp [State.complete]

/-! ### `accepted` -/

@[simp] theorem State.accepted_cfg (w : Word) (later : List Word) : (s.accepted w later).cfg = s.cfg := rfl
@[simp] theorem State.accepted_fb (w : Word) (later : List Word) : (s.accepted w later).fb = s.fb := rfl
@[simp] theorem State.accepted_sess (w : Word) (later : List Word) : (s.accepted w later).sess = s.sess := rfl
@[simp] theorem State.accepted_busy (w : Word) (later : List Word) : (s.accepted w later).busy = true := rfl
@[simp] theorem State.accepted_faultCode (w : Word) (later : List Word) : (s.accepted w later).faultCode = s.faultCode := rfl
@[simp] theorem State.accepted_faultInfo (w : Word) (later : List Word) : (s.accepted w later).faultInfo = s.faultInfo := rfl
@[simp] theorem State.accepted_curOp (w : Word) (later : List Word) : (s.accepted w later).curOp = w := rfl
@[simp] theorem State.accepted_fromHost (w : Word) (later : List Word) : (s.accepted w later).fromHost = true := rfl
@[simp] theorem State.accepted_seq (w : Word) (later : List Word) : (s.accepted w later).seq = s.seq := rfl
@[simp] theorem State.accepted_pending (w : Word) (later : List Word) : (s.accepted w later).pending = s.pending := rfl
@[simp] theorem State.accepted_resp (w : Word) (later : List Word) : (s.accepted w later).resp = .none := rfl
@[simp] theorem State.accepted_lvlRst (w : Word) (later : List Word) : (s.accepted w later).lvlRst = s.lvlRst := rfl
@[simp] theorem State.accepted_lvlCs (w : Word) (later : List Word) : (s.accepted w later).lvlCs = s.lvlCs := rfl
@[simp] theorem State.accepted_lvlCd (w : Word) (later : List Word) : (s.accepted w later).lvlCd = s.lvlCd := rfl
@[simp] theorem State.accepted_clockRate (w : Word) (later : List Word) : (s.accepted w later).clockRate = s.clockRate := rfl
@[simp] theorem State.accepted_trace (w : Word) (later : List Word) : (s.accepted w later).trace = s.trace := rfl
@[simp] theorem State.accepted_responses (w : Word) (later : List Word) : (s.accepted w later).responses = s.responses := rfl
@[simp] theorem State.accepted_hostWords (w : Word) (later : List Word) : (s.accepted w later).hostWords = later := rfl
@[simp] theorem State.accepted_answers (w : Word) (later : List Word) : (s.accepted w later).answers = s.answers := rfl
@[simp] theorem State.accepted_rstN (w : Word) (later : List Word) : (s.accepted w later).rstN = s.rstN := rfl
@[simp] theorem State.accepted_resets (w : Word) (later : List Word) : (s.accepted w later).resets = s.resets := rfl

/-! ### `resetBlock` -/

@[simp] theorem State.resetBlock_cfg : s.resetBlock.cfg = s.cfg := rfl
@[simp] theorem State.resetBlock_fb : s.resetBlock.fb = Memory.ofFn (Config.resetByte (s.resets + 1)) := rfl
@[simp] theorem State.resetBlock_sess : s.resetBlock.sess = .uninit := rfl
@[simp] theorem State.resetBlock_busy : s.resetBlock.busy = true := rfl
@[simp] theorem State.resetBlock_faultCode : s.resetBlock.faultCode = .none := rfl
@[simp] theorem State.resetBlock_faultInfo : s.resetBlock.faultInfo = 0 := rfl
@[simp] theorem State.resetBlock_curOp : s.resetBlock.curOp = autoInitOp := rfl
@[simp] theorem State.resetBlock_fromHost : s.resetBlock.fromHost = false := rfl
@[simp] theorem State.resetBlock_seq : s.resetBlock.seq = construction s.cfg (Config.resetLineOrder (s.resets + 1)) := rfl
@[simp] theorem State.resetBlock_pending : s.resetBlock.pending = .none := rfl
@[simp] theorem State.resetBlock_resp : s.resetBlock.resp = .none := rfl
@[simp] theorem State.resetBlock_lvlRst : s.resetBlock.lvlRst = unconfiguredIf s.cfg.hasRst := rfl
@[simp] theorem State.resetBlock_lvlCs : s.resetBlock.lvlCs = unconfiguredIf s.cfg.hasCs := rfl
@[simp] theorem State.resetBlock_lvlCd : s.resetBlock.lvlCd = .unconf := rfl
@[simp] theorem State.resetBlock_clockRate : s.resetBlock.clockRate = s.cfg.sclkHz := rfl
@[simp] theorem State.resetBlock_trace : s.resetBlock.trace = s.trace := rfl
@[simp] theorem State.resetBlock_responses : s.resetBlock.responses = s.responses := rfl
@[simp] theorem State.resetBlock_hostWords : s.resetBlock.hostWords = s.hostWords := rfl
@[simp] theorem State.resetBlock_answers : s.resetBlock.answers = s.answers := rfl
@[simp] theorem State.resetBlock_rstN : s.resetBlock.rstN = s.rstN := rfl
@[simp] theorem State.resetBlock_resets : s.resetBlock.resets = s.resets + 1 := rfl

/-! ### `presentWord` -/

@[simp] theorem State.presentWord_cfg (w : Word) : (s.presentWord w).cfg = s.cfg := rfl
@[simp] theorem State.presentWord_fb (w : Word) : (s.presentWord w).fb = s.fb := rfl
@[simp] theorem State.presentWord_sess (w : Word) : (s.presentWord w).sess = .ready := rfl
@[simp] theorem State.presentWord_busy (w : Word) : (s.presentWord w).busy = false := rfl
@[simp] theorem State.presentWord_faultCode (w : Word) : (s.presentWord w).faultCode = s.faultCode := rfl
@[simp] theorem State.presentWord_faultInfo (w : Word) : (s.presentWord w).faultInfo = s.faultInfo := rfl
@[simp] theorem State.presentWord_curOp (w : Word) : (s.presentWord w).curOp = s.curOp := rfl
@[simp] theorem State.presentWord_fromHost (w : Word) : (s.presentWord w).fromHost = s.fromHost := rfl
@[simp] theorem State.presentWord_seq (w : Word) : (s.presentWord w).seq = [] := rfl
@[simp] theorem State.presentWord_pending (w : Word) : (s.presentWord w).pending = .none := rfl
@[simp] theorem State.presentWord_resp (w : Word) : (s.presentWord w).resp = s.resp := rfl
@[simp] theorem State.presentWord_lvlRst (w : Word) : (s.presentWord w).lvlRst = s.lvlRst := rfl
@[simp] theorem State.presentWord_lvlCs (w : Word) : (s.presentWord w).lvlCs = s.lvlCs := rfl
@[simp] theorem State.presentWord_lvlCd (w : Word) : (s.presentWord w).lvlCd = s.lvlCd := rfl
@[simp] theorem State.presentWord_clockRate (w : Word) : (s.presentWord w).clockRate = s.clockRate := rfl
@[simp] theorem State.presentWord_trace (w : Word) : (s.presentWord w).trace = s.trace := rfl
@[simp] theorem State.presentWord_responses (w : Word) : (s.presentWord w).responses = s.responses := rfl
@[simp] theorem State.presentWord_hostWords (w : Word) : (s.presentWord w).hostWords = w :: s.hostWords := rfl
@[simp] theorem State.presentWord_answers (w : Word) : (s.presentWord w).answers = s.answers := rfl
@[simp] theorem State.presentWord_rstN (w : Word) : (s.presentWord w).rstN = [] := rfl
@[simp] theorem State.presentWord_resets (w : Word) : (s.presentWord w).resets = s.resets := rfl

/-! ### `presentWrite` -/

@[simp] theorem State.presentWrite_cfg (bs : List Byte) : (s.presentWrite bs).cfg = s.cfg := rfl
@[simp] theorem State.presentWrite_fb (bs : List Byte) : (s.presentWrite bs).fb = s.fb := rfl
@[simp] theorem State.presentWrite_sess (bs : List Byte) : (s.presentWrite bs).sess = if s.sess = .faulted then .ready else s.sess := rfl
@[simp] theorem State.presentWrite_busy (bs : List Byte) : (s.presentWrite bs).busy = true := rfl
@[simp] theorem State.presentWrite_faultCode (bs : List Byte) : (s.presentWrite bs).faultCode = s.faultCode := rfl
@[simp] theorem State.presentWrite_faultInfo (bs : List Byte) : (s.presentWrite bs).faultInfo = s.faultInfo := rfl
@[simp] theorem State.presentWrite_curOp (bs : List Byte) : (s.presentWrite bs).curOp = s.curOp := rfl
@[simp] theorem State.presentWrite_fromHost (bs : List Byte) : (s.presentWrite bs).fromHost = s.fromHost := rfl
@[simp] theorem State.presentWrite_seq (bs : List Byte) : (s.presentWrite bs).seq = .busWrite bs :: s.seq := rfl
@[simp] theorem State.presentWrite_pending (bs : List Byte) : (s.presentWrite bs).pending = .none := rfl
@[simp] theorem State.presentWrite_resp (bs : List Byte) : (s.presentWrite bs).resp = s.resp := rfl
@[simp] theorem State.presentWrite_lvlRst (bs : List Byte) : (s.presentWrite bs).lvlRst = s.lvlRst := rfl
@[simp] theorem State.presentWrite_lvlCs (bs : List Byte) : (s.presentWrite bs).lvlCs = s.lvlCs := rfl
@[simp] theorem State.presentWrite_lvlCd (bs : List Byte) : (s.presentWrite bs).lvlCd = s.lvlCd := rfl
@[simp] theorem State.presentWrite_clockRate (bs : List Byte) : (s.presentWrite bs).clockRate = s.clockRate := rfl
@[simp] theorem State.presentWrite_trace (bs : List Byte) : (s.presentWrite bs).trace = s.trace := rfl
@[simp] theorem State.presentWrite_responses (bs : List Byte) : (s.presentWrite bs).responses = s.responses := rfl
@[simp] theorem State.presentWrite_hostWords (bs : List Byte) : (s.presentWrite bs).hostWords = s.hostWords := rfl
@[simp] theorem State.presentWrite_answers (bs : List Byte) : (s.presentWrite bs).answers = s.answers := rfl
@[simp] theorem State.presentWrite_rstN (bs : List Byte) : (s.presentWrite bs).rstN = [] := rfl
@[simp] theorem State.presentWrite_resets (bs : List Byte) : (s.presentWrite bs).resets = s.resets := rfl

/-! ### `driveLine` -/

@[simp] theorem State.driveLine_cfg (l : Line) (v : Level) : (s.driveLine l v).cfg = s.cfg := by cases l <;> rfl
@[simp] theorem State.driveLine_fb (l : Line) (v : Level) : (s.driveLine l v).fb = s.fb := by cases l <;> rfl
@[simp] theorem State.driveLine_sess (l : Line) (v : Level) : (s.driveLine l v).sess = s.sess := by cases l <;> rfl
@[simp] theorem State.driveLine_busy (l : Line) (v : Level) : (s.driveLine l v).busy = s.busy := by cases l <;> rfl
@[simp] theorem State.driveLine_faultCode (l : Line) (v : Level) : (s.driveLine l v).faultCode = s.faultCode := by cases l <;> rfl
@[simp] theorem State.driveLine_faultInfo (l : Line) (v : Level) : (s.driveLine l v).faultInfo = s.faultInfo := by cases l <;> rfl
@[simp] theorem State.driveLine_curOp (l : Line) (v : Level) : (s.driveLine l v).curOp = s.curOp := by cases l <;> rfl
@[simp] theorem State.driveLine_fromHost (l : Line) (v : Level) : (s.driveLine l v).fromHost = s.fromHost := by cases l <;> rfl
@[simp] theorem State.driveLine_seq (l : Line) (v : Level) : (s.driveLine l v).seq = s.seq := by cases l <;> rfl
@[simp] theorem State.driveLine_pending (l : Line) (v : Level) : (s.driveLine l v).pending = s.pending := by cases l <;> rfl
@[simp] theorem State.driveLine_resp (l : Line) (v : Level) : (s.driveLine l v).resp = s.resp := by cases l <;> rfl
@[simp] theorem State.driveLine_clockRate (l : Line) (v : Level) : (s.driveLine l v).clockRate = s.clockRate := by cases l <;> rfl
@[simp] theorem State.driveLine_trace (l : Line) (v : Level) : (s.driveLine l v).trace = s.trace := by cases l <;> rfl
@[simp] theorem State.driveLine_responses (l : Line) (v : Level) : (s.driveLine l v).responses = s.responses := by cases l <;> rfl
@[simp] theorem State.driveLine_hostWords (l : Line) (v : Level) : (s.driveLine l v).hostWords = s.hostWords := by cases l <;> rfl
@[simp] theorem State.driveLine_answers (l : Line) (v : Level) : (s.driveLine l v).answers = s.answers := by cases l <;> rfl
@[simp] theorem State.driveLine_rstN (l : Line) (v : Level) : (s.driveLine l v).rstN = s.rstN := by cases l <;> rfl
@[simp] theorem State.driveLine_resets (l : Line) (v : Level) : (s.driveLine l v).resets = s.resets := by cases l <;> rfl
@[simp] theorem State.driveLine_lvlRst (l : Line) (v : Level) :
    (s.driveLine l v).lvlRst = if l = .rst then some (.driven v) else s.lvlRst := by cases l <;> rfl
@[simp] theorem State.driveLine_lvlCs (l : Line) (v : Level) :
    (s.driveLine l v).lvlCs = if l = .cs then some (.driven v) else s.lvlCs := by cases l <;> rfl
@[simp] theorem State.driveLine_lvlCd (l : Line) (v : Level) :
    (s.driveLine l v).lvlCd = if l = .cd then .driven v else s.lvlCd := by cases l <;> rfl

end Sys2Proof.Machine
end

