-- ==== Sys2Proof/Laws/Ops.lean ====
section
/-! SUPPORT. What each shared operation can do, said once. -/

namespace Sys2Proof.Machine

/-! ### Actions (10_state.md R22) -/

/-- A line action goes on exactly when the configuration has the line. -/
theorem lineAction_next {l : Line} {v : Level} {e : Event} {s t : State} (h : lineAction l v e s = .next t) :
    hasLine s.cfg l = true ∧ t = (s.driveLine l v).emit e := by
  unfold lineAction at h
  split at h
  · next hl => exact ⟨hl, (Host.Outcome.next.inj h).symm⟩
  · cases h

theorem lineAction_present {l : Line} {v : Level} {e : Event} {s : State} (h : hasLine s.cfg l = true) :
    lineAction l v e s = .next ((s.driveLine l v).emit e) := if_pos h

/-- What `do(a)` does when it goes on. -/
theorem doAction_next {a : Action} {s t : State} (h : doAction a s = .next t) :
    (∃ l v, a = .lineConfig l v ∧ hasLine s.cfg l = true ∧ t = (s.driveLine l v).emit (.lineConfig l v))
    ∨ (∃ l v, a = .lineSet l v ∧ hasLine s.cfg l = true ∧ t = (s.driveLine l v).emit (.lineSet l v))
    ∨ (a = .busConfig ∧ t = s.emit (.busConfig s.clockRate s.cfg.cpol s.cfg.cpha))
    ∨ (∃ bs, a = .busWrite bs ∧ t = { s with pending := .write bs })
    ∨ (∃ ms, a = .wait ms ∧ t = { s with pending := .delay ms })
    ∨ (∃ x, a = .setSess x ∧ t = { s with sess := x }) := by
  cases a with
  | lineConfig l v => exact .inl ⟨l, v, rfl, lineAction_next h⟩
  | lineSet l v => exact .inr (.inl ⟨l, v, rfl, lineAction_next h⟩)
  | busConfig => exact .inr (.inr (.inl ⟨rfl, (Host.Outcome.next.inj h).symm⟩))
  | busWrite bs => exact .inr (.inr (.inr (.inl ⟨bs, rfl, (Host.Outcome.next.inj h).symm⟩)))
  | wait ms => exact .inr (.inr (.inr (.inr (.inl ⟨ms, rfl, (Host.Outcome.next.inj h).symm⟩))))
  | setSess x => exact .inr (.inr (.inr (.inr (.inr ⟨x, rfl, (Host.Outcome.next.inj h).symm⟩))))

/-! ### The transport and the timer (R24, R25) -/

/-- What the transport can do: complete the write, fail it, or stall. -/
theorem transportStep_next {bs : List Byte} {s t : State} (h : transportStep bs s = .next t) :
    (∃ later, s.answers = .ok :: later ∧ t = { s.emit (.write bs) with pending := .none, answers := later })
    ∨ (∃ later, s.answers = .fail :: later
        ∧ t = { s.emit (.writeFault bs) with answers := later }.raiseFault .transportFault s.curOp)
    ∨ (s.answers.head? ≠ some .ok ∧ s.answers.head? ≠ some .fail ∧ t = s) := by
  unfold transportStep at h
  split at h
  · next later ha => exact .inl ⟨later, ha, (Host.Outcome.next.inj h).symm⟩
  · next later ha => exact .inr (.inl ⟨later, ha, (Host.Outcome.next.inj h).symm⟩)
  · next ha => exact .inr (.inr ⟨by simp [ha], by simp [ha], (Host.Outcome.next.inj h).symm⟩)
  · next ha => exact .inr (.inr ⟨by simp [ha], by simp [ha], (Host.Outcome.next.inj h).symm⟩)

/-! ### Taking a fault (60_exceptions.md R93) -/

/-- Taking a fault leaves the buffer, the lines, the trace, the configuration and the inputs alone. -/
theorem raiseFault_frame (code : FaultCode) (w : Word) (s : State) :
    let t := s.raiseFault code w
    t.cfg = s.cfg ∧ t.fb = s.fb ∧ t.curOp = s.curOp ∧ t.fromHost = s.fromHost ∧ t.resp = s.resp
      ∧ t.lvlRst = s.lvlRst ∧ t.lvlCs = s.lvlCs ∧ t.lvlCd = s.lvlCd ∧ t.clockRate = s.clockRate
      ∧ t.trace = s.trace ∧ t.hostWords = s.hostWords ∧ t.answers = s.answers ∧ t.rstN = s.rstN
      ∧ t.resets = s.resets := by
  simp

/-! ### Wire commands -/

theorem decodeOneByte_encodes (b : Byte) :
    decodeOneByte b = none ∨ (decodeOneByte b).map encode = some (.wire [b]) := by
  revert b
  decide +kernel

theorem decodeTwoBytes_encodes (b param : Byte) (hb : b = 0x81 ∨ b = 0xF8) :
    (decodeTwoBytes b param).toOption = none
      ∨ (decodeTwoBytes b param).toOption.map encode = some (.wire [b, param]) := by
  rcases hb with rfl | rfl
  · revert param
    decide +kernel
  · revert param
    decide +kernel

/-- A byte list that is one wire command is the encoding of that command (30_encoding.md R61). -/
theorem decodeTransaction_encodes {bs : List Byte} {i : Instr} (h : decodeTransaction bs = .ok i) :
    encode i = .wire bs := by
  unfold decodeTransaction at h
  split at h
  · cases h
  · next j hw =>
    obtain rfl : j = i := by injection h
    cases bs with
    | nil => cases hw
    | cons b rest =>
      simp only [decodeWire] at hw
      split at hw
      · next hp =>
        cases rest with
        | nil => cases hw
        | cons param rest' =>
          simp only at hw
          split at hw
          · next k hk =>
            simp only [Except.ok.injEq, Prod.mk.injEq] at hw
            obtain ⟨rfl, rfl⟩ := hw
            simp only [takesParameter, Bool.or_eq_true, decide_eq_true_eq] at hp
            simpa [hk, Except.toOption] using decodeTwoBytes_encodes b param hp
          · cases hw
      · split at hw
        · next k hk =>
          simp only [Except.ok.injEq, Prod.mk.injEq] at hw
          obtain ⟨rfl, rfl⟩ := hw
          simpa [hk] using decodeOneByte_encodes b
        · cases hw
  · cases h

/-- The meaning of a wire command makes its bytes the write in flight (R22, R61). -/
theorem exec_wire {i : Instr} {bs : List Byte} (h : encode i = .wire bs) (s : State) :
    exec i s = .next { s with pending := .write bs } := by
  cases i <;> simp only [encode, Code.wire.injEq, reduceCtorEq] at h <;> subst h <;> rfl

/-! ### What a meaning can do -/

/-- The ways a meaning goes on: load the operation's actions, store one byte, take a decode fault, or put a write in flight. -/
inductive ExecMove (s : State) : State → Prop where
  | load (as : List Action) (r : Resp) (hr : r ≠ .none) : ExecMove s (s.load as r)
  | store (a : Nat) (d : Byte) (h : (s.fb.read a).isSome = true) :
    ExecMove s ({ s with fb := s.fb.put a d }.load [] .ack)
  | fault (code : FaultCode) (w : Word) (h : code = .illegalOp ∨ code = .fbRange) : ExecMove s (s.raiseFault code w)
  | send (bs : List Byte) : ExecMove s { s with pending := .write bs }

/-- Every meaning goes on in every state: none of them stops. -/
theorem exec_move (i : Instr) (s : State) : ∃ t, exec i s = .next t ∧ ExecMove s t := by
  cases i with
  | fbWrite off d =>
    simp only [exec, execFbWrite]
    split
    · next fb h =>
      obtain ⟨hs, rfl⟩ := Memory.write_eq_some.mp h
      exact ⟨_, rfl, .store _ _ hs⟩
    · exact ⟨_, rfl, .fault _ _ (.inr rfl)⟩
  | fbRead off =>
    simp only [exec, execFbRead]
    split
    · exact ⟨_, rfl, .load _ _ (by simp)⟩
    · exact ⟨_, rfl, .fault _ _ (.inr rfl)⟩
  | init | setContrast | setInverse | setCursor | sendBuffer => exact ⟨_, rfl, .load _ _ (by simp)⟩
  | illegalOp0 | illegalOp8 | illegalOp9 | illegalOpA | illegalOpB | illegalOpC | illegalOpD | illegalOpE
  | illegalOpF => exact ⟨_, rfl, .fault _ _ (.inl rfl)⟩
  | _ => exact ⟨_, rfl, .send _⟩

theorem exec_next {i : Instr} {s t : State} (h : exec i s = .next t) : ExecMove s t := by
  obtain ⟨t', h', hm⟩ := exec_move i s
  obtain rfl : t' = t := Host.Outcome.next.inj (h'.symm.trans h)
  exact hm

end Sys2Proof.Machine
end

