-- ==== Sys2Proof/Laws/PerInstr.lean ====
section
/-! SUPPORT. Per-instruction family TableRow: the encoding of every operation has the fixed bits of its row of
spec/opcode_table.json, and no bit of the row's must-be-zero mask. -/

namespace Sys2Proof.Laws.TableRow

/-- The bits a row gives: `match`, `mask` and `must_be_zero`; for a wire command they apply to the first byte. -/
structure Row where
  pattern : Word
  mask : Word
  mustBeZero : Word

/-- The table, row by row. -/
def row : Instr → Row
  | .init => ⟨0x10000000, 0xF0000000, 0x0FFFFFFF⟩
  | .setContrast _ => ⟨0x20000000, 0xF0000000, 0x0FFF0000⟩
  | .setInverse _ => ⟨0x30000000, 0xF0000000, 0x0FFFFFFE⟩
  | .setCursor _ _ => ⟨0x40000000, 0xF0000000, 0x0FFF0000⟩
  | .sendBuffer => ⟨0x50000000, 0xF0000000, 0x0FFFFFFF⟩
  | .fbWrite _ _ => ⟨0x60000000, 0xF0000000, 0x0F000000⟩
  | .fbRead _ => ⟨0x70000000, 0xF0000000, 0x0F0000FF⟩
  | .illegalOp0 _ => ⟨0x00000000, 0xF0000000, 0⟩
  | .illegalOp8 _ => ⟨0x80000000, 0xF0000000, 0⟩
  | .illegalOp9 _ => ⟨0x90000000, 0xF0000000, 0⟩
  | .illegalOpA _ => ⟨0xA0000000, 0xF0000000, 0⟩
  | .illegalOpB _ => ⟨0xB0000000, 0xF0000000, 0⟩
  | .illegalOpC _ => ⟨0xC0000000, 0xF0000000, 0⟩
  | .illegalOpD _ => ⟨0xD0000000, 0xF0000000, 0⟩
  | .illegalOpE _ => ⟨0xE0000000, 0xF0000000, 0⟩
  | .illegalOpF _ => ⟨0xF0000000, 0xF0000000, 0⟩
  | .w1SystemReset => ⟨0xE2, 0xFF, 0⟩
  | .w2ScrollLine0 => ⟨0x40, 0xFF, 0⟩
  | .w3ComDirectionReversed => ⟨0xC8, 0xFF, 0⟩
  | .w4SegmentDirectionNormal => ⟨0xA0, 0xFF, 0⟩
  | .w5AllPixelNormal => ⟨0xA4, 0xFF, 0⟩
  | .w6InverseDisplay _ => ⟨0xA6, 0xFE, 0⟩
  | .w7LcdBias => ⟨0xA2, 0xFF, 0⟩
  | .w8PowerControl => ⟨0x27, 0xFF, 0⟩
  | .w9BoosterRatio => ⟨0xF8, 0xFF, 0⟩
  | .w10VlcdResistorRatio => ⟨0x23, 0xFF, 0⟩
  | .w11Contrast _ => ⟨0x81, 0xFF, 0⟩
  | .w12CursorUpdateModeReset => ⟨0xEE, 0xFF, 0⟩
  | .w13DisplayOn => ⟨0xAF, 0xFF, 0⟩
  | .w14PageAddress _ => ⟨0xB0, 0xF0, 0⟩
  | .w15ColumnLow _ => ⟨0x00, 0xF0, 0⟩
  | .w16ColumnHigh _ => ⟨0x10, 0xF0, 0⟩

/-- What a row's bits are matched against: the word of a host operation, the first byte of a transaction. -/
def firstUnit : Code → Word
  | .host w => w
  | .wire [] => 0
  | .wire (b :: _) => b.setWidth 32

/-- The encoding of an operation has its row's fixed bits, and its must-be-zero bits clear. -/
def Statement (i : Instr) : Prop :=
  firstUnit (encode i) &&& (row i).mask = (row i).pattern ∧ firstUnit (encode i) &&& (row i).mustBeZero = 0

/-- A host word has its row's fixed bits when the row matches its operation code. -/
theorem ofCode {i : Instr} {op : BitVec 4} {rest : BitVec 28} {pattern mbz : Word}
    (he : encode i = .host (opWord op rest)) (hr : row i = ⟨pattern, 0xF0000000, mbz⟩)
    (hp : pattern = op.setWidth 32 <<< 28) (hz : opWord op rest &&& mbz = 0) : Statement i := by
  unfold Statement
  rw [he, hr, hp]
  exact ⟨opWord_code op rest, hz⟩

theorem init : Statement .init := by unfold Statement; decide

theorem setContrast (v : BitVec 16) : Statement (.setContrast v) :=
  ofCode rfl rfl (by decide) (opWord_and _ _ _ (by decide) (value_clear v))

theorem setInverse (f : BitVec 1) : Statement (.setInverse f) :=
  ofCode rfl rfl (by decide) (opWord_and _ _ _ (by decide) (flag_clear f))

theorem setCursor (p c : Byte) : Statement (.setCursor p c) :=
  ofCode rfl rfl (by decide) (opWord_and _ _ _ (by decide) (overByte_clear_cursor p c))

theorem sendBuffer : Statement .sendBuffer := by unfold Statement; decide

theorem fbWrite (off : BitVec 16) (d : Byte) : Statement (.fbWrite off d) :=
  ofCode rfl rfl (by decide) (opWord_and _ _ _ (by decide) (overByte_clear_write off d))

theorem fbRead (off : BitVec 16) : Statement (.fbRead off) :=
  ofCode rfl rfl (by decide) (opWord_and _ _ _ (by decide) (overByte_clear_read off))

theorem illegalOp0 (rest : BitVec 28) : Statement (.illegalOp0 rest) :=
  ofCode rfl rfl (by decide) (by simp)

theorem illegalOp8 (rest : BitVec 28) : Statement (.illegalOp8 rest) :=
  ofCode rfl rfl (by decide) (by simp)

theorem illegalOp9 (rest : BitVec 28) : Statement (.illegalOp9 rest) :=
  ofCode rfl rfl (by decide) (by simp)

theorem illegalOpA (rest : BitVec 28) : Statement (.illegalOpA rest) :=
  ofCode rfl rfl (by decide) (by simp)

theorem illegalOpB (rest : BitVec 28) : Statement (.illegalOpB rest) :=
  ofCode rfl rfl (by decide) (by simp)

theorem illegalOpC (rest : BitVec 28) : Statement (.illegalOpC rest) :=
  ofCode rfl rfl (by decide) (by simp)

theorem illegalOpD (rest : BitVec 28) : Statement (.illegalOpD rest) :=
  ofCode rfl rfl (by decide) (by simp)

theorem illegalOpE (rest : BitVec 28) : Statement (.illegalOpE rest) :=
  ofCode rfl rfl (by decide) (by simp)

theorem illegalOpF (rest : BitVec 28) : Statement (.illegalOpF rest) :=
  ofCode rfl rfl (by decide) (by simp)

theorem w1SystemReset : Statement .w1SystemReset := by unfold Statement; decide

theorem w2ScrollLine0 : Statement .w2ScrollLine0 := by unfold Statement; decide

theorem w3ComDirectionReversed : Statement .w3ComDirectionReversed := by unfold Statement; decide

theorem w4SegmentDirectionNormal : Statement .w4SegmentDirectionNormal := by unfold Statement; decide

theorem w5AllPixelNormal : Statement .w5AllPixelNormal := by unfold Statement; decide

theorem w6InverseDisplay (f : BitVec 1) : Statement (.w6InverseDisplay f) := by
  revert f
  unfold Statement
  decide

theorem w7LcdBias : Statement .w7LcdBias := by unfold Statement; decide

theorem w8PowerControl : Statement .w8PowerControl := by unfold Statement; decide

theorem w9BoosterRatio : Statement .w9BoosterRatio := by unfold Statement; decide

theorem w10VlcdResistorRatio : Statement .w10VlcdResistorRatio := by unfold Statement; decide

theorem w11Contrast (c6 : BitVec 6) : Statement (.w11Contrast c6) := by
  revert c6
  unfold Statement
  decide

theorem w12CursorUpdateModeReset : Statement .w12CursorUpdateModeReset := by unfold Statement; decide

theorem w13DisplayOn : Statement .w13DisplayOn := by unfold Statement; decide

theorem w14PageAddress (p4 : BitVec 4) : Statement (.w14PageAddress p4) := by
  revert p4
  unfold Statement
  decide

theorem w15ColumnLow (clo : BitVec 4) : Statement (.w15ColumnLow clo) := by
  revert clo
  unfold Statement
  decide

theorem w16ColumnHigh (chi : BitVec 4) : Statement (.w16ColumnHigh chi) := by
  revert chi
  unfold Statement
  decide

end Sys2Proof.Laws.TableRow
end

