-- ==== Sys2Proof/Laws/Step.lean ====
section
/-! SUPPORT. What one step of the block can do, said once: every later statement about steps is a case analysis on it. -/

namespace Sys2Proof.Machine

/-- The ways a step of the block out of reset goes on. -/
inductive BlockMove (s : State) : State → Prop where
  /-- FAULTED, a stall, or nothing to accept: nothing changes (10_state.md R24, R26, R28). -/
  | quiet : BlockMove s s
  /-- A word is accepted and its operation begins (R26). -/
  | accept (w : Word) (later : List Word) (i : Instr) (t : State)
      (hs : s.sess = .ready) (hb : s.busy = false) (hw : s.hostWords = w :: later)
      (hd : decodeHost w = .ok i) (hm : ExecMove (s.accepted w later) t)
      (he : exec i (s.accepted w later) = .next t) : BlockMove s t
  /-- A word is accepted and decode rejects it (30_encoding.md R57). -/
  | reject (w : Word) (later : List Word) (r : WordReject)
      (hs : s.sess = .ready) (hb : s.busy = false) (hw : s.hostWords = w :: later)
      (hd : decodeHost w = .error r) : BlockMove s ((s.accepted w later).raiseFault (rejectFault r) w)
  /-- The operation completes (R27). -/
  | complete (hb : s.busy = true) (hp : s.pending = .none) (hq : s.seq = []) : BlockMove s s.complete
  /-- An action of the sequencer runs (R22, R23). -/
  | action (a : Action) (rest : List Action) (t : State) (hb : s.busy = true) (hn : s.sess ≠ .faulted)
      (hp : s.pending = .none) (hq : s.seq = a :: rest) (hd : doAction a { s with seq := rest } = .next t) : BlockMove s t
  /-- The transport answers the write in flight, or stalls (R24). -/
  | transport (bs : List Byte) (t : State) (hb : s.busy = true) (hn : s.sess ≠ .faulted)
      (hp : s.pending = .write bs) (ht : transportStep bs s = .next t) : BlockMove s t
  /-- The delay in flight ends (R25). -/
  | timer (ms : Nat) (hb : s.busy = true) (hp : s.pending = .delay ms) :
      BlockMove s { s.emit (.delay ms) with pending := .none }

/-- The write of a command transaction runs as the wire command it is, which is the plain action (log entry 11). -/
theorem runAction_eq (a : Action) (s : State) : runAction a s = doAction a s := by
  cases a with
  | busWrite bs =>
    simp only [runAction]
    split
    · next i h => exact exec_wire (decodeTransaction_encodes h) s
    · rfl
  | _ => rfl

theorem blockStep_move {s t : State} (h : blockStep s = .next t) : BlockMove s t := by
  unfold blockStep at h
  split at h
  · exact Host.Outcome.next.inj h ▸ .quiet
  next hn =>
  split at h
  · next hb =>
    unfold busyStep at h
    split at h
    · next hp =>
      unfold sequencerStep at h
      split at h
      · next hq => exact Host.Outcome.next.inj h ▸ .complete hb hp hq
      · next a rest hq =>
        rw [runAction_eq] at h
        exact .action a rest t hb hn hp hq h
    · next bs hp => exact .transport bs t hb hn hp h
    · next ms hp => exact Host.Outcome.next.inj h ▸ .timer ms hb hp
  · next hb =>
    unfold idleStep at h
    split at h
    · exact Host.Outcome.next.inj h ▸ .quiet
    · next w later hw =>
      split at h
      · next hs =>
        unfold acceptWord at h
        split at h
        · next i hd => exact .accept w later i t hs (by simpa using hb) hw hd (exec_next h) h
        · next r hd => exact Host.Outcome.next.inj h ▸ .reject w later r hs (by simpa using hb) hw hd
      · exact Host.Outcome.next.inj h ▸ .quiet

/-- What a step can do, `rst_n` included (70_reset_and_hazards.md R105). -/
theorem step_next {s t : State} (h : step s = .next t) :
    configRefusal s.cfg = none
      ∧ ((∃ later, s.rstN = .low :: later ∧ t = ({ s with rstN := later } : State).resetBlock)
        ∨ (s.rstN.head? ≠ some .low ∧ BlockMove { s with rstN := s.rstN.tail } t)) := by
  unfold step guardedStep at h
  split at h
  · cases h
  next hc =>
  refine ⟨hc, ?_⟩
  unfold sampleReset at h
  split at h
  · next hr =>
    refine .inr ⟨by simp [hr], ?_⟩
    rw [show ({ s with rstN := s.rstN.tail } : State) = s by rw [hr, List.tail_nil, ← hr]]
    exact blockStep_move h
  · next later hr => exact .inl ⟨later, hr, (Host.Outcome.next.inj h).symm⟩
  · next later hr => exact .inr ⟨by simp [hr], by simpa [hr] using blockStep_move h⟩

/-- With a configuration the spec admits and `rst_n` high for good, a step is a step of the block. -/
theorem step_released {s : State} (hc : configRefusal s.cfg = none) (hr : s.rstN = []) : step s = blockStep s := by
  unfold step guardedStep sampleReset
  rw [hc, hr]

end Sys2Proof.Machine
end

