-- ==== Sys2Proof/Laws/Run.lean ====
section
/-! SUPPORT. Runs of several steps: how they begin, and how they join. -/

namespace Sys2Proof.Machine

@[simp] theorem runSteps_zero (s : State) : runSteps 0 s = .next s := rfl

/-- One more step, for any machine behind the host's interface. -/
theorem run_succ_next (M : Host.Core) {s t : M.State} (h : M.step s = .next t) (k : Nat) :
    M.run (k + 1) s = M.run k t := by
  rw [Host.Core.run, h]

theorem run_succ_fault (M : Host.Core) {s : M.State} {r : M.Fault} (h : M.step s = .fault r) (k : Nat) :
    M.run (k + 1) s = .fault r := by
  rw [Host.Core.run, h]

theorem run_succ_refused (M : Host.Core) {s : M.State} {r : M.Refusal} (h : M.step s = .refused r) (k : Nat) :
    M.run (k + 1) s = .refused r := by
  rw [Host.Core.run, h]

theorem runSteps_succ {s t : State} (h : step s = .next t) (k : Nat) : runSteps (k + 1) s = runSteps k t :=
  run_succ_next Sys2Proof.core h k

theorem runSteps_add {k : Nat} {s t : State} (h : runSteps k s = .next t) (j : Nat) : runSteps (k + j) s = runSteps j t := by
  induction k generalizing s with
  | zero => rw [Nat.zero_add, Host.Outcome.next.inj (h : Host.Outcome.next s = .next t)]
  | succ k ih =>
    cases hs : step s with
    | next u => rw [Nat.succ_add, runSteps_succ hs, ih ((runSteps_succ hs k).symm.trans h)]
    | fault r =>
      have hr : runSteps (k + 1) s = .fault r := run_succ_fault Sys2Proof.core hs k
      cases hr.symm.trans h
    | refused r =>
      have hr : runSteps (k + 1) s = .refused r := run_succ_refused Sys2Proof.core hs k
      cases hr.symm.trans h

theorem State.LeadsTo.refl (s : State) : s.LeadsTo s := ⟨0, rfl⟩

theorem State.LeadsTo.step {s t u : State} (h : Machine.step s = .next t) (h' : t.LeadsTo u) : s.LeadsTo u := by
  obtain ⟨k, hk⟩ := h'
  exact ⟨k + 1, (runSteps_succ h k).trans hk⟩

theorem State.LeadsTo.trans {s t u : State} (h : s.LeadsTo t) (h' : t.LeadsTo u) : s.LeadsTo u := by
  obtain ⟨k, hk⟩ := h
  obtain ⟨j, hj⟩ := h'
  exact ⟨k + j, (runSteps_add hk j).trans hj⟩

/-- A step of a working block takes the head of `seq` (10_state.md R23). -/
theorem step_working {s : State} (h : s.Working) {a : Action} {rest : List Action} (hq : s.seq = a :: rest) :
    step s = doAction a { s with seq := rest } := by
  rw [step_released h.configAdmitted h.released]
  simp [blockStep, h.notFaulted, h.busy, busyStep, h.nonePending, sequencerStep, hq, runAction_eq]

/-- A step of a working block with nothing left completes the operation (R27). -/
theorem step_completes {s : State} (h : s.Working) (hq : s.seq = []) : step s = .next s.complete := by
  rw [step_released h.configAdmitted h.released]
  simp [blockStep, h.notFaulted, h.busy, busyStep, h.nonePending, sequencerStep, hq]

/-- A step of a waiting block accepts the word presented (R26). -/
theorem step_accepts {s : State} (h : s.Waiting) {w : Word} {later : List Word} (hw : s.hostWords = w :: later) :
    step s = acceptWord w later s := by
  rw [step_released h.configAdmitted h.released]
  simp [blockStep, h.ready, h.idle, idleStep, hw]

end Sys2Proof.Machine
end

