-- ==== Sys2Proof/Laws/Whole.lean ====
section
/-! SUPPORT. The action lists that operations load are whole: transactions close, every write may be made where it stands, the session ends READY, and only present lines are named. -/

namespace Sys2Proof.Machine

/-- A wire command may be written inside a command transaction. -/
theorem writeAllowed_command (c : Config) {bs : List Byte} (h : oneWireCommand bs = true) :
    writeAllowed c c.hasCs (.driven c.cdCommand) bs = true := by
  cases hc : c.hasCs <;> simp [writeAllowed, h, hc]

/-- A page of bytes may be written inside a data transaction. -/
theorem writeAllowed_page (c : Config) {bs : List Byte} (h : bs.length = width) :
    writeAllowed c c.hasCs (.driven c.cdData) bs = true := by
  cases hc : c.hasCs <;> simp [writeAllowed, h, hc]

/-! ### Reading past a transaction -/

theorem sessionPath_frameCmd (c : Config) (bs : List Byte) (x : Sess) (rest : List Action) :
    sessionPath x (frameCmd c bs ++ rest) = sessionPath x rest := sessionPath_frame ..

theorem sessionPath_frameData (c : Config) (bs : List Byte) (x : Sess) (rest : List Action) :
    sessionPath x (frameData c bs ++ rest) = sessionPath x rest := sessionPath_frame ..

theorem sessionPath_cursor (c : Config) (p col : Byte) (x : Sess) (rest : List Action) :
    sessionPath x (cursor c p col ++ rest) = sessionPath x rest := by
  simp [cursor, sessionPath_frameCmd]

theorem framedFrom_frameCmd (c : Config) {bs : List Byte} (h : oneWireCommand bs = true) (k : Bool) (cd : PinLevel)
    (rest : List Action) :
    framedFrom c k false cd (frameCmd c bs ++ rest) = framedFrom c false false (.driven c.cdCommand) rest := by
  rw [frameCmd, framedFrom_frame, writeAllowed_command c h, Bool.true_and]

theorem framedFrom_frameData (c : Config) {bs : List Byte} (h : bs.length = width) (k : Bool) (cd : PinLevel)
    (rest : List Action) :
    framedFrom c k false cd (frameData c bs ++ rest) = framedFrom c false false (.driven c.cdData) rest := by
  rw [frameData, framedFrom_frame, writeAllowed_page c h, Bool.true_and]

theorem framedFrom_cursor (c : Config) (p col : Byte) (k : Bool) (cd : PinLevel) (rest : List Action) :
    framedFrom c k false cd (cursor c p col ++ rest) = framedFrom c false false (.driven c.cdCommand) rest := by
  simp [cursor, framedFrom_frameCmd]

/-! ### Whole operations -/

/-- What the invariant asks of the actions of an operation just accepted. -/
structure WholeOperation (c : Config) (as : List Action) : Prop where
  path : sessionPath .ready as = true
  framed : ∀ k cd, framedFrom c k false cd as = true
  waits : ∀ ms, Action.wait ms ∈ as → ms = c.resetHoldMs
  lines : ∀ a ∈ as, ∀ l, a.line? = some l → hasLine c l = true

theorem wholeOperation_nil (c : Config) : WholeOperation c [] := ⟨rfl, fun _ _ => rfl, by simp, by simp⟩

theorem wholeOperation_command (c : Config) {bs : List Byte} (h : oneWireCommand bs = true) :
    WholeOperation c (frameCmd c bs) where
  path := by simpa [sessionPath] using sessionPath_frameCmd c bs .ready []
  framed k cd := by simpa [framedFrom] using framedFrom_frameCmd c h k cd []
  waits ms hm := absurd hm (frame_noWait c _ bs ms)
  lines a ha l := frame_linesPresent c _ bs a ha l

theorem wholeOperation_cursor (c : Config) (p col : Byte) : WholeOperation c (cursor c p col) where
  path := by simpa [sessionPath] using sessionPath_cursor c p col .ready []
  framed k cd := by simpa [framedFrom] using framedFrom_cursor c p col k cd []
  waits ms hm := by simp [cursor, frameCmd, frame_noWait] at hm
  lines a ha l hl := by
    simp only [cursor, List.mem_append] at ha
    rcases ha with (ha | ha) | ha <;> exact frame_linesPresent c _ _ a ha l hl

/-- The pages of a transfer, for any pages of the buffer. -/
theorem wholeOperation_pages (c : Config) {m : Memory} (hm : m.wf) :
    ∀ ps : List Nat, (∀ p ∈ ps, p < pages) → WholeOperation c (ps.flatMap (pageActions c m.slice)) := by
  intro ps
  induction ps with
  | nil => exact fun _ => wholeOperation_nil c
  | cons p ps ih =>
    intro h
    have ih := ih fun q hq => h q (by simp [hq])
    have hp : p < pages := h p (by simp)
    have hlen : (m.slice (p * width) width).length = width :=
      Memory.slice_length hm (by simp [fbSize, width, height, pages] at *; omega)
    rw [List.flatMap_cons]
    refine ⟨?_, fun k cd => ?_, fun ms hms => ?_, fun a ha l hl => ?_⟩
    · simp [pageActions, sessionPath_cursor, sessionPath_frameData, ih.path]
    · simp [pageActions, framedFrom_cursor, framedFrom_frameData, hlen, ih.framed]
    · rcases List.mem_append.mp hms with hms | hms
      · simp [pageActions, cursor, frameCmd, frameData, frame_noWait] at hms
      · exact ih.waits ms hms
    · rcases List.mem_append.mp ha with ha | ha
      · simp only [pageActions, cursor, List.mem_append] at ha
        rcases ha with ((ha | ha) | ha) | ha <;> exact frame_linesPresent c _ _ a ha l hl
      · exact ih.lines a ha l hl

theorem wholeOperation_sendBuffer (c : Config) {m : Memory} (hm : m.wf) :
    WholeOperation c (sendBufferActions c m.slice) :=
  wholeOperation_pages c hm _ (by simp)

theorem oneWireCommand_rows : ∀ bs ∈ initializationRows, oneWireCommand bs = true := by decide

/-- The rows of the initialization are its first row, the configuration rows, and the cursor's (42_session.md R80). -/
theorem initializationRows_eq :
    initializationRows = [[0xE2]] ++ configurationRows ++ [[pageByte 0], [columnLowByte 0], [columnHighByte 0]] := by
  decide

theorem oneWireCommand_configurationRows : ∀ bs ∈ configurationRows, oneWireCommand bs = true := by decide

theorem wholeOperation_init (c : Config) : WholeOperation c (initActions c) := by
  have hrows := oneWireCommand_configurationRows
  have hreset : oneWireCommand [0xE2#8] = true := by decide
  simp [configurationRows] at hrows
  refine ⟨?_, fun k cd => ?_, fun ms hms => ?_, fun a ha l hl => ?_⟩
  · cases h : c.hasRst <;>
      simp [initActions, resetPulse, h, configurationRows, sessionPath_frameCmd, sessionPath_cursor, sessionPath,
        sessStepAllowed]
  · cases h : c.hasRst <;>
      simp [initActions, resetPulse, h, configurationRows, framedFrom_frameCmd, framedFrom_cursor, framedFrom, hrows,
        hreset]
  · simp [initActions, resetPulse, frameCmd, cursor, frame_noWait] at hms
    exact hms.2
  · simp [initActions, resetPulse, frameCmd, cursor] at ha
    rcases ha with h | h | h | h | ⟨_, _, h⟩ | h | h | h | h
    all_goals first | exact frame_linesPresent _ _ _ _ h _ hl | skip
    · subst h; simp [Action.line?] at hl
    · obtain ⟨h0, rfl | rfl | rfl⟩ := h <;> simp_all [Action.line?] <;> subst hl <;> simp_all [hasLine]
    · subst h; simp [Action.line?] at hl
    · subst h; simp [Action.line?] at hl

end Sys2Proof.Machine
end

