-- ==== Sys2Proof/Tests/Slice0.lean ====
section
/-! SUPPORT. The package's own tests, with expected results from spec/95_test_vectors.md or worked out by hand from the rules, and a witness for every statement that has hypotheses. -/

namespace Sys2Proof.Machine

/-! ### Helper blocks -/

/-- The configuration of the programs of 95_test_vectors.md: reset and chip-select lines, active and command levels 0. -/
def demoConfig : Config where
  hasRst := true
  hasCs := true
  hasCd := true
  csActiveLevel := .low
  cdCommandLevel := .low
  cdInitLevel := .low
  sclkHz := 1
  cpol := 0
  cpha := 0
  bitOrder := .msbFirst
  resetHoldMs := 100

/-- The same with chip-select active and the command state at level 1 (T-FRM-4, T-FRM-5). -/
def highConfig : Config := { demoConfig with csActiveLevel := .high, cdCommandLevel := .high }

/-- Neither optional line. -/
def bareConfig : Config := { demoConfig with hasRst := false, hasCs := false }

/-- A buffer of one byte value. -/
def filled (b : Byte) : Memory := Memory.ofFn fun _ => b

/-- A block of a configuration waiting for requests, with these words and these answers to come. -/
def idleBlock (c : Config) (ws : List Word) (as : List TransportAnswer) : State :=
  { State.constructed c .cdRstCs (filled 0) with
    sess := .ready
    busy := false
    seq := []
    lvlRst := if c.hasRst then some (.driven .high) else none
    lvlCs := if c.hasCs then some (.driven c.csActiveLevel.flip) else none
    lvlCd := .driven c.cdCommandLevel
    hostWords := ws
    answers := as }

/-- A block working on an operation of the host. -/
def workingBlock (c : Config) (seq : List Action) (as : List TransportAnswer) : State :=
  { idleBlock c [] as with busy := true, fromHost := true, resp := .ack, seq := seq }

/-- A block inside a command transaction, chip-select asserted, with what is in flight and what is left. -/
def bracketBlock (p : Pending) (seq : List Action) (as : List TransportAnswer) : State :=
  { workingBlock demoConfig seq as with
    pending := p
    lvlCs := some (.driven .low)
    trace := [.busConfig 1 0 0] }

/-- A block holding a fault. -/
def faultedBlock (code : FaultCode) : State :=
  { idleBlock demoConfig [0x50000000] [] with sess := .faulted, faultCode := code, faultInfo := 0x600400FF }

/-! ### Decoding: words written out from the formats of 30_encoding.md R53 and the table of R59 -/

/-- One word of each host format, bit by bit: OP, then the operand fields. -/
theorem test_decode_formats :
    decode (.host 0b00010000000000000000000000000000) = .ok .init
      ∧ decode (.host 0b00100000000000001000000000000001) = .ok (.setContrast 0x8001)
      ∧ decode (.host 0b00110000000000000000000000000001) = .ok (.setInverse 1)
      ∧ decode (.host 0b01000000000000000000001111001000) = .ok (.setCursor 3 200)
      ∧ decode (.host 0b01010000000000000000000000000000) = .ok .sendBuffer
      ∧ decode (.host 0b01100000000000111111111101010101) = .ok (.fbWrite 1023 0x55)
      ∧ decode (.host 0b01110000000000001000010100000000) = .ok (.fbRead 133) := by decide

/-- One word of each reserved code, R58. -/
theorem test_decode_reserved_codes :
    decode (.host 0b00000000000000000000000000000000) = .ok (.illegalOp0 0)
      ∧ decode (.host 0x80000001) = .ok (.illegalOp8 1)
      ∧ decode (.host 0x9FFFFFFF) = .ok (.illegalOp9 0xFFFFFFF)
      ∧ decode (.host 0xA0000000) = .ok (.illegalOpA 0)
      ∧ decode (.host 0xB8000000) = .ok (.illegalOpB 0x8000000)
      ∧ decode (.host 0xC0000000) = .ok (.illegalOpC 0)
      ∧ decode (.host 0xD0000000) = .ok (.illegalOpD 0)
      ∧ decode (.host 0xE0000000) = .ok (.illegalOpE 0)
      ∧ decode (.host 0xFFFFFFFF) = .ok (.illegalOpF 0xFFFFFFF) := by decide

/-- The bytes of W1 to W16, bit by bit where they hold an operand. -/
theorem test_decode_wire_commands :
    decode (.wire [0xE2]) = .ok .w1SystemReset
      ∧ decode (.wire [0x40]) = .ok .w2ScrollLine0
      ∧ decode (.wire [0xC8]) = .ok .w3ComDirectionReversed
      ∧ decode (.wire [0xA0]) = .ok .w4SegmentDirectionNormal
      ∧ decode (.wire [0xA4]) = .ok .w5AllPixelNormal
      ∧ decode (.wire [0b10100110]) = .ok (.w6InverseDisplay 0)
      ∧ decode (.wire [0b10100111]) = .ok (.w6InverseDisplay 1)
      ∧ decode (.wire [0xA2]) = .ok .w7LcdBias
      ∧ decode (.wire [0x27]) = .ok .w8PowerControl
      ∧ decode (.wire [0xF8, 0x00]) = .ok .w9BoosterRatio
      ∧ decode (.wire [0x23]) = .ok .w10VlcdResistorRatio
      ∧ decode (.wire [0b10000001, 0b00100000]) = .ok (.w11Contrast 0x20)
      ∧ decode (.wire [0xEE]) = .ok .w12CursorUpdateModeReset
      ∧ decode (.wire [0xAF]) = .ok .w13DisplayOn
      ∧ decode (.wire [0b10110011]) = .ok (.w14PageAddress 3)
      ∧ decode (.wire [0b00001000]) = .ok (.w15ColumnLow 8)
      ∧ decode (.wire [0b00011100]) = .ok (.w16ColumnHigh 12) := by decide

/-- T-ENC-12, 14, 17, 18, 19: a must-be-zero bit. -/
theorem test_decode_reserved_bits :
    decode (.host 0x10000001) = .error (.word .reservedBits)
      ∧ decode (.host 0x20010000) = .error (.word .reservedBits)
      ∧ decode (.host 0x30000003) = .error (.word .reservedBits)
      ∧ decode (.host 0x40010000) = .error (.word .reservedBits)
      ∧ decode (.host 0x50000001) = .error (.word .reservedBits)
      ∧ decode (.host 0x61000000) = .error (.word .reservedBits)
      ∧ decode (.host 0x7FFFFF00) = .error (.word .reservedBits)
      ∧ decode (.host 0x70000001) = .error (.word .reservedBits) := by decide

/-- T-ENC-16, 20: an offset of 1024 or more, and T-ENC-22, an offset that is not. -/
theorem test_decode_fb_range :
    decode (.host 0x60040000) = .error (.word .fbRange) ∧ decode (.host 0x70040000) = .error (.word .fbRange)
      ∧ decode (.host 0x60FFFF00) = .error (.word .fbRange)
      ∧ decode (.host 0x6000FF00) = .ok (.fbWrite 255 0) := by decide

/-- Byte lists that are not one wire command (R59, R61). -/
theorem test_decode_wire_rejects :
    decode (.wire []) = .error (.wire .emptyTransaction)
      ∧ decode (.wire [0x41]) = .error (.wire .notAWireCommand)
      ∧ decode (.wire [0xF8]) = .error (.wire .missingParameter)
      ∧ decode (.wire [0xF8, 0x01]) = .error (.wire .parameterOutOfForm)
      ∧ decode (.wire [0x81, 0x40]) = .error (.wire .parameterOutOfForm)
      ∧ decode (.wire [0xE2, 0xE2]) = .error (.wire .bytesAfterCommand) := by decide

/-- Rows of the opcode table, as it numbers their bits. -/
theorem test_table_words :
    decodeTableWord 32 0x10000000 = some .init ∧ decodeTableWord 32 0xF0000000 = some (.illegalOpF 0)
      ∧ decodeTableWord 8 0xE2 = some .w1SystemReset ∧ decodeTableWord 16 0x00F8 = some .w9BoosterRatio
      ∧ decodeTableWord 16 0x2081 = some (.w11Contrast 0x20) ∧ decodeTableWord 8 0x81 = some (.w11Contrast 0) := by
  decide

/-! ### Well-formedness -/

/-- The check refuses an offset past the buffer, and takes the last one. -/
theorem test_wellFormed_fbWrite :
    (Instr.fbWrite 1024 0).wellFormed = false ∧ (Instr.fbWrite 0xFFFF 0).wellFormed = false
      ∧ (Instr.fbWrite 1023 0).wellFormed = true := by decide

theorem test_wellFormed_fbRead :
    (Instr.fbRead 1024).wellFormed = false ∧ (Instr.fbRead 0xFFFF).wellFormed = false
      ∧ (Instr.fbRead 1023).wellFormed = true := by decide

/-! ### Operand arithmetic and layout -/

/-- T-CON-1 to T-CON-10. -/
theorem test_contrast_values :
    ([0, 3, 4, 127, 128, 252, 255, 256, 300, 65535] : List (BitVec 16)).map contrastByte
      = [0x00, 0x00, 0x01, 0x1F, 0x20, 0x3F, 0x3F, 0x00, 0x0B, 0x3F] := by decide

/-- T-CUR-1 to T-CUR-8. -/
theorem test_cursor_bytes :
    ([(0, 0), (3, 200), (7, 127), (8, 0), (15, 255), (16, 128), (255, 16), (0, 15)] : List (Byte × Byte)).map
        (fun x => [pageByte x.1, columnLowByte x.2, columnHighByte x.2])
      = [[0xB0, 0x00, 0x10], [0xB3, 0x08, 0x1C], [0xB7, 0x0F, 0x17], [0xB8, 0x00, 0x10], [0xBF, 0x0F, 0x1F],
        [0xB0, 0x00, 0x18], [0xBF, 0x00, 0x11], [0xB0, 0x0F, 0x10]] := by decide

/-- T-INV-1, T-INV-2. -/
theorem test_inverse_bytes : inverseByte 0 = 0xA6 ∧ inverseByte 1 = 0xA7 := by decide

/-- T-PIX-1 to T-PIX-9. -/
theorem test_pixel_places :
    ([(0, 0), (7, 0), (0, 7), (0, 8), (5, 10), (64, 37), (127, 0), (0, 63), (127, 63)] : List (Nat × Nat)).map
        (fun x => (pixOffset x.1 x.2, pixBit x.1 x.2))
      = [(0, 0), (7, 0), (0, 7), (128, 0), (133, 2), (576, 5), (127, 0), (896, 7), (1023, 7)] := by decide

/-- T-PIX-10: a coordinate outside the grid has no pixel. -/
theorem test_pixel_out_of_range : (filled 0xFF).pixel 128 0 = none := by decide +kernel

/-- T-FB-2, T-FB-3: the byte written back. -/
theorem test_pixel_set_bytes : byteWithBit 0xFF 5 0 = 0xDF ∧ byteWithBit 0x00 5 1 = 0x20 := by decide

/-! ### Action lists -/

/-- T-FRM-1 and T-FRM-2. -/
theorem test_frame_with_chip_select :
    eventsOf demoConfig (frameCmd demoConfig [0xE2])
      = [.busConfig 1 0 0, .lineSet .cs .high, .lineSet .cd .low, .lineSet .cs .low, .write [0xE2], .lineSet .cs .high]
      ∧ eventsOf demoConfig (frameData demoConfig [0x01, 0x02])
        = [.busConfig 1 0 0, .lineSet .cs .high, .lineSet .cd .high, .lineSet .cs .low, .write [0x01, 0x02],
          .lineSet .cs .high] := by decide

/-- T-FRM-3. -/
theorem test_frame_without_chip_select :
    eventsOf bareConfig (frameCmd bareConfig [0x81, 0x20])
      = [.busConfig 1 0 0, .lineSet .cd .low, .write [0x81, 0x20]] := by decide

/-- T-FRM-4 and T-FRM-5. -/
theorem test_frame_active_high :
    eventsOf highConfig (frameCmd highConfig [0xAF])
      = [.busConfig 1 0 0, .lineSet .cs .low, .lineSet .cd .high, .lineSet .cs .high, .write [0xAF], .lineSet .cs .low]
      ∧ eventsOf highConfig (frameData highConfig [0x00])
        = [.busConfig 1 0 0, .lineSet .cs .low, .lineSet .cd .low, .lineSet .cs .high, .write [0x00],
          .lineSet .cs .low] := by decide

/-- T-INIT-1 and T-INIT-4, and the transactions of 42_session.md R80. -/
theorem test_init_list :
    (eventsOf demoConfig (initActions demoConfig)).length = 99
      ∧ (eventsOf bareConfig (initActions bareConfig)).length = 48
      ∧ writesOf (initActions bareConfig)
        = [[0xE2], [0x40], [0xC8], [0xA0], [0xA4], [0xA6], [0xA2], [0x27], [0xF8, 0x00], [0x23], [0x81, 0x20], [0xEE],
          [0xAF], [0xB0], [0x00], [0x10]] := by decide

/-- P1: the line configurations and the pulse come first. -/
theorem test_construction_events :
    (eventsOf demoConfig (construction demoConfig .cdRstCs)).take 7
      = [.lineConfig .cd .low, .lineConfig .rst .high, .lineConfig .cs .high, .lineSet .rst .low, .delay 100,
        .lineSet .rst .high, .busConfig 1 0 0]
      ∧ (eventsOf demoConfig (construction demoConfig .cdRstCs)).length = 102 := by decide

/-! ### The assembler -/

/-- Words of R63's table, P2 to P4. -/
theorem test_assembler :
    assemble (.setContrast 300) = some 0x2000012C ∧ assemble (.setCur 16 128) = some 0x40001080
      ∧ assemble (.fbWr 1024 255) = some 0x600400FF ∧ assemble (.fbRd 1023) = some 0x7003FF00
      ∧ assemble (.setInv 2) = none ∧ assemble (.setCur 256 0) = none := by decide

/-! ### Status and faults -/

/-- T-FLT-1, 3, 4, 5, 6, 7, 8. -/
theorem test_status_values :
    (State.constructed demoConfig .cdRstCs (filled 0)).status = 0x04
      ∧ (idleBlock demoConfig [] []).status = 0x02
      ∧ (workingBlock demoConfig [] []).status = 0x06
      ∧ (faultedBlock .transportFault).status = 0x13
      ∧ (faultedBlock .illegalOp).status = 0x23
      ∧ (faultedBlock .reservedBits).status = 0x33
      ∧ (faultedBlock .fbRange).status = 0x43 := by decide

/-! ### Meanings, one at a time -/

/-- A field of the state a meaning answers. -/
def afterwards {α : Type} (r : Result) (f : State → α) : Option α :=
  match r with
  | .next s => some (f s)
  | .fault _ | .refused _ => none

/-- R82: INIT marks the session first and last. -/
theorem test_init_markers :
    afterwards (exec .init (idleBlock demoConfig [] [])) (fun s => (s.seq.head?, s.seq.getLast?, s.resp))
      = some (some (.setSess .uninit), some (.setSess .ready), .ack) := by decide

/-- T-CON-9 in a whole transaction. -/
theorem test_setContrast :
    afterwards (exec (.setContrast 300) (idleBlock demoConfig [] [])) (fun s => (writesOf s.seq, s.resp))
      = some ([[0x81, 0x0B]], .ack) := by decide

/-- T-INV-2. -/
theorem test_setInverse :
    afterwards (exec (.setInverse 1) (idleBlock bareConfig [] [])) (fun s => s.seq)
      = some [.busConfig, .lineSet .cd .low, .busWrite [0xA7]] := by decide

/-- T-CUR-2. -/
theorem test_setCursor :
    afterwards (exec (.setCursor 3 200) (idleBlock demoConfig [] [])) (fun s => writesOf s.seq)
      = some [[0xB3], [0x08], [0x1C]] := by decide

/-- T-SB-1 and T-SB-2: the commands of page 7 and the bytes of page 1. -/
theorem test_sendBuffer :
    afterwards (exec .sendBuffer { idleBlock demoConfig [] [] with fb := Memory.ofFn fun i => BitVec.ofNat 8 i })
        (fun s => ((writesOf s.seq).length, (writesOf s.seq)[28]?, ((writesOf s.seq)[7]?).map fun bs => (bs.head?, bs.length)))
      = some (32, some [0xB7], some (some 0x80, 128)) := by decide +kernel

/-- T-FB-1: the byte is stored, its neighbour is not. -/
theorem test_fbWrite :
    afterwards (exec (.fbWrite 133 0x04) (idleBlock demoConfig [] []))
        (fun s => (s.fb.read 133, s.fb.read 134, s.resp, s.trace))
      = some (some 0x04, some 0x00, .ack, []) := by decide +kernel

/-- T-FB-1, the read, at the last offset. -/
theorem test_fbRead :
    afterwards (exec (.fbRead 1023) { idleBlock demoConfig [] [] with fb := filled 0x5A }) (fun s => s.resp)
      = some (.data 0x5A) := by decide +kernel

/-- T-FLT-6: the whole word is recorded, and the host is answered. -/
theorem test_illegal_op :
    afterwards (step (idleBlock demoConfig [0xF0000001] []))
        (fun s => (s.faultCode, s.faultInfo, s.sess, s.busy, s.responses))
      = some (.illegalOp, 0xF0000001, .faulted, false, [.fault .illegalOp]) := by decide +kernel

/-- T-FLT-7. -/
theorem test_reserved_bits_fault :
    afterwards (step (idleBlock demoConfig [0x10000001] [])) (fun s => (s.status, s.faultInfo, s.trace))
      = some (0x33, 0x10000001, []) := by decide +kernel

/-- T-FB-4. -/
theorem test_fb_range_fault :
    afterwards (step (idleBlock demoConfig [0x60040055] [])) (fun s => (s.status, s.faultInfo, s.fb.read 1023))
      = some (0x43, 0x60040055, some 0) := by decide +kernel

/-- A wire command becomes the write in flight, with its parameter. -/
theorem test_wire_contrast :
    afterwards (exec (.w11Contrast 0x3F) (bracketBlock .none [] [])) (fun s => (s.pending, s.trace))
      = some (.write [0x81, 0x3F], [.busConfig 1 0 0]) := by decide

theorem test_wire_booster :
    afterwards (exec .w9BoosterRatio (bracketBlock .none [] [])) (fun s => s.pending) = some (.write [0xF8, 0x00]) := by
  decide

/-! ### Steps -/

/-- T-FRM-6: a failed write leaves chip-select asserted. -/
theorem test_transport_fault :
    afterwards (step (bracketBlock (.write [0xE2]) [.lineSet .cs .high] [.fail]))
        (fun s => (s.faultCode, s.lvlCs, s.seq, s.trace.getLast?))
      = some (.transportFault, some (.driven .low), [], some (.writeFault [0xE2])) := by decide

/-- R24: a complete write emits its event and is no longer in flight. -/
theorem test_transport_ok :
    afterwards (step (bracketBlock (.write [0xE2]) [.lineSet .cs .high] [.ok])) (fun s => (s.pending, s.trace.getLast?))
      = some (.none, some (.write [0xE2])) := by decide

/-- R105: a low sample abandons the operation without a response. -/
theorem test_reset_sample :
    afterwards (step { bracketBlock (.write [0xE2]) [] [.ok] with rstN := [.low] })
        (fun s => (s.status, s.pending, s.responses, s.curOp))
      = some (0x04, .none, [], 0x10000000) := by decide

/-- P4: nothing is accepted after a fault. -/
theorem test_faulted_quiet :
    afterwards (step (faultedBlock .fbRange)) (fun s => (s.hostWords, s.status)) = some ([0x50000000], 0x43) := by decide

/-- The very next step runs the operation that is placed for it. -/
theorem test_withFetchWord :
    afterwards (step ((idleBlock demoConfig [] []).withFetchWord 32 0x60008504)) (fun s => (s.curOp, s.fb.read 133))
      = some (0x60008504, some 0x04)
      ∧ afterwards (step ((idleBlock demoConfig [] []).withFetchWord 16 0x3F81)) (fun s => s.pending)
        = some (.write [0x81, 0x3F]) := by decide +kernel

/-! ### Witnesses: for each statement with hypotheses, states and operands that meet them together -/

theorem filled_wf (b : Byte) : (filled b).wf := Memory.ofFn_wf _

theorem idle_waiting (c : Config) (ws : List Word) (as : List TransportAnswer) (h : configRefusal c = none) :
    (idleBlock c ws as).Waiting := ⟨h, rfl, rfl, rfl, rfl, rfl⟩

theorem working_working (c : Config) (seq : List Action) (as : List TransportAnswer) (h : configRefusal c = none) :
    (workingBlock c seq as).Working := ⟨h, by simp [workingBlock, idleBlock], rfl, rfl, rfl⟩

/-- The part of the invariant that a test can evaluate: all of it but the buffer. -/
def invCheck (s : State) : Bool :=
  decide (configRefusal s.cfg = none ∧ s.clockRate = s.cfg.sclkHz ∧ s.lvlRst.isSome = s.cfg.hasRst
    ∧ s.lvlCs.isSome = s.cfg.hasCs ∧ (s.sess = .faulted ↔ s.faultCode ≠ .none) ∧ (s.faultCode = .none → s.faultInfo = 0)
    ∧ (s.busy = false → s.seq = [] ∧ s.pending = .none) ∧ (s.busy = false → s.sess = .ready ∨ s.sess = .faulted)
    ∧ (s.busy = false → s.sess = .ready → s.csAsserted = false) ∧ (s.busy = true → s.sess ≠ .faulted)
    ∧ (s.busy = true → sessionPath s.sess s.seq = true)
    ∧ (s.busy = true → framedFrom s.cfg (busConfigured s.trace && !s.pending.isWrite) s.csAsserted s.lvlCd s.seq = true)
    ∧ (s.fromHost = false → s.curOp = autoInitOp) ∧ (s.fromHost = false → s.resp = .none)
    ∧ (s.busy = true → s.fromHost = true → s.resp ≠ .none))
  && (match s.pending with
    | .none => true
    | .write bs => busConfigured s.trace && writeAllowed s.cfg s.csAsserted s.lvlCd bs
    | .delay ms => ms == s.cfg.resetHoldMs && !s.csAsserted)
  && s.seq.all (fun a =>
    (match a with
    | .wait ms => ms == s.cfg.resetHoldMs
    | .lineConfig _ _ | .lineSet _ _ | .busConfig | .busWrite _ | .setSess _ => true)
    && (match a.line? with
      | some l => hasLine s.cfg l
      | none => true))
  && s.trace.all (eventAllowed s.cfg)

theorem inv_of_check {s : State} (hfb : s.fb.wf) (h : invCheck s = true) : s.Inv := by
  simp only [invCheck, Bool.and_eq_true, decide_eq_true_eq, List.all_eq_true] at h
  obtain ⟨⟨⟨⟨h1, h2, h3, h4, h5, h6, h7, h8, h9, h10, h11, h12, h13, h14, h15⟩, hp⟩, hs⟩, ht⟩ := h
  refine ⟨h1, hfb, h2, h3, h4, h5, h6, h7, h8, h9, h10, h11, h12, ?_, ?_, ?_, ?_, h13, h14, h15, ht⟩
  · intro bs hb
    simpa [hb] using hp
  · intro ms hm
    simpa [hm] using hp
  · intro ms hm
    simpa using (hs _ hm).1
  · intro a ha l hl
    simpa [hl] using (hs a ha).2

theorem idle_inv (ws : List Word) (as : List TransportAnswer) : (idleBlock demoConfig ws as).Inv :=
  inv_of_check (filled_wf 0) (by decide : invCheck (idleBlock demoConfig [] []) = true)

theorem witness_DecodeOfEncodeIsIdentity : ∃ i : Instr, i.wellFormed = true := ⟨.fbWrite 1023 0x55, by decide⟩

theorem witness_EncodeOfDecodeIsIdentity : ∃ (x : Code) (i : Instr), decode x = .ok i :=
  ⟨.wire [0x81, 0x3F], .w11Contrast 0x3F, by decide⟩

/-- Each clause, at the ends of its range. -/
theorem witness_DecodeChecksInOrder :
    (∀ w : Word, (idleBlock demoConfig [w] []).Waiting ∧ (idleBlock demoConfig [w] []).hostWords = [w])
      ∧ (0x0FFFFFFF#32).toNat / 2 ^ 28 = 0 ∧ 8 ≤ (0x80000000#32).toNat / 2 ^ 28
      ∧ ((0x10000001#32).toNat / 2 ^ 28 = 1 ∧ 0x10000001#32 &&& 0x0FFFFFFF ≠ 0)
      ∧ ((0x7004FF01#32).toNat / 2 ^ 28 = 7 ∧ 0x7004FF01#32 &&& 0x0F0000FF ≠ 0)
      ∧ ((0x60040000#32).toNat / 2 ^ 28 = 6 ∧ 0x60040000#32 &&& 0x0F000000 = 0
        ∧ 1024 ≤ (0x60040000#32).toNat / 2 ^ 8 % 2 ^ 16)
      ∧ ((0x7003FF00#32).toNat / 2 ^ 28 = 7 ∧ 0x7003FF00#32 &&& 0x0F0000FF = 0
        ∧ (0x7003FF00#32).toNat / 2 ^ 8 % 2 ^ 16 = 1023)
      ∧ ((0x2000FFFF#32).toNat / 2 ^ 28 = 2 ∧ 0x2000FFFF#32 &&& 0x0FFF0000 = 0) :=
  ⟨fun w => ⟨idle_waiting _ _ _ (by decide), rfl⟩, by decide⟩

theorem witness_StepRunsTheDecodedOperation :
    ((idleBlock demoConfig [0x30000001] []).Waiting ∧ decode (.host 0x30000001) = .ok (.setInverse 1))
      ∧ decode (.host 0x30000003) = .error (.word .reservedBits) ∧ decode (.host 0x60040000) = .error (.word .fbRange)
      ∧ (workingBlock demoConfig [.busWrite [0xE2]] []).Working ∧ decode (.wire [0xE2]) = .ok .w1SystemReset :=
  ⟨⟨idle_waiting _ _ _ (by decide), by decide⟩, by decide, by decide, working_working _ _ _ (by decide), by decide⟩

theorem witness_RstHighLeavesTheStepAsItIs :
    ∃ s t : State, s.rstN = [] ∧ step s = .next t :=
  ⟨workingBlock demoConfig [.busConfig] [], _, rfl, rfl⟩

theorem witness_HostPortAcceptsOnlyWhenIdleAndReady :
    (∃ s t : State, step s = .next t ∧ s.busy = true ∧ s.hostWords ≠ [])
      ∧ (∃ s t : State, step s = .next t ∧ s.busy = false ∧ s.sess ≠ .ready ∧ s.hostWords ≠ [])
      ∧ (idleBlock demoConfig [0x50000000] []).Waiting :=
  ⟨⟨{ workingBlock demoConfig [.busConfig] [] with hostWords := [0x50000000] }, _, rfl, rfl, by decide⟩,
    ⟨faultedBlock .fbRange, _, rfl, rfl, by decide, by decide⟩, idle_waiting _ _ _ (by decide)⟩

theorem witness_SequencerExecutesTheHeadAction :
    (workingBlock demoConfig [.busConfig] []).Working
      ∧ ∃ s t : State, step s = .next t ∧ s.rstN.head? ≠ some .low ∧ s.busy = true ∧ s.pending ≠ .none :=
  ⟨working_working _ _ _ (by decide),
    ⟨bracketBlock (.write [0xE2]) [.lineSet .cs .high] [.ok], _, rfl, by decide, rfl, by decide⟩⟩

/-- A state that meets the invariant with each kind of action at the head of `seq`. -/
theorem witness_ActionsHaveExactlyTheirEffect :
    (∀ x ∈ [(LineOrder.rstCdCs, Line.rst), (.csCdRst, .cs), (.cdRstCs, .cd)],
        ∃ v rest, (State.constructed demoConfig x.1 (filled 0)).seq = .lineConfig x.2 v :: rest
          ∧ (State.constructed demoConfig x.1 (filled 0)).Inv ∧ (State.constructed demoConfig x.1 (filled 0)).Working)
      ∧ (∀ as ∈ [[Action.lineSet .rst .low], [.lineSet .cs .high], [.lineSet .cd .low], [.busConfig], [.wait 100]],
        (workingBlock demoConfig as []).Inv ∧ (workingBlock demoConfig as []).Working)
      ∧ (bracketBlock .none [.busWrite [0xE2], .lineSet .cs .high] []).Inv
      ∧ (bracketBlock .none [.busWrite [0xE2], .lineSet .cs .high] []).Working
      ∧ (workingBlock demoConfig (initActions demoConfig) []).Inv
      ∧ (initActions demoConfig).head? = some (.setSess .uninit) := by
  refine ⟨?_, ?_, inv_of_check (filled_wf 0) (by decide), ⟨by decide, by decide, rfl, rfl, rfl⟩,
    inv_of_check (filled_wf 0) (by decide +kernel), rfl⟩
  · intro x hx
    simp only [List.mem_cons, List.not_mem_nil, or_false] at hx
    rcases hx with rfl | rfl | rfl
    all_goals exact ⟨_, _, rfl, inv_of_check (filled_wf 0) (by decide +kernel), ⟨by decide, by decide, rfl, rfl, rfl⟩⟩
  · intro as has
    simp only [List.mem_cons, List.not_mem_nil, or_false] at has
    rcases has with rfl | rfl | rfl | rfl | rfl
    all_goals exact ⟨inv_of_check (filled_wf 0) (by decide), working_working _ _ _ (by decide)⟩

/-- Each answer at the head of the list, and no answer at all. -/
theorem witness_TransportHasThreeOutcomes :
    ∀ as ∈ [[TransportAnswer.ok], [.fail], [.stall], []], configRefusal (bracketBlock (.write [0xE2]) [] as).cfg = none
      ∧ (bracketBlock (.write [0xE2]) [] as).rstN = [] ∧ (bracketBlock (.write [0xE2]) [] as).busy = true
      ∧ (bracketBlock (.write [0xE2]) [] as).sess ≠ .faulted
      ∧ (bracketBlock (.write [0xE2]) [] as).pending = .write [0xE2]
      ∧ (bracketBlock (.write [0xE2]) [] as).answers = as := by
  decide

theorem witness_DelayTimerCompletes :
    let s := { workingBlock demoConfig [] [] with pending := .delay 100 }
    configRefusal s.cfg = none ∧ s.rstN = [] ∧ s.busy = true ∧ s.sess ≠ .faulted ∧ s.pending = .delay 100 := by
  decide

theorem witness_ResponseComesLast :
    (∀ r : Resp, State.Working { workingBlock demoConfig [] [] with resp := r })
      ∧ (workingBlock demoConfig [] []).fromHost = true
      ∧ State.Working { workingBlock demoConfig [] [] with fromHost := false }
      ∧ ∃ t : State, step (workingBlock demoConfig [] []) = .next t :=
  ⟨fun _ => ⟨(by decide : configRefusal demoConfig = none), by simp [workingBlock, idleBlock], rfl, rfl, rfl⟩, rfl,
    ⟨by decide, by decide, rfl, rfl, rfl⟩, _, rfl⟩

theorem witness_FaultedIsQuiescent :
    (∃ t : State, step (faultedBlock .fbRange) = .next t ∧ (faultedBlock .fbRange).rstN.head? ≠ some .low)
      ∧ (∃ t : State, step { faultedBlock .fbRange with rstN := [.low] } = .next t)
      ∧ configRefusal (faultedBlock .fbRange).cfg = none ∧ (faultedBlock .fbRange).sess = .faulted
      ∧ (faultedBlock .fbRange).rstN = [] :=
  ⟨⟨_, rfl, by decide⟩, ⟨_, rfl⟩, by decide, rfl, rfl⟩

theorem bracket_inv : (bracketBlock (.write [0xE2]) [.lineSet .cs .high] [.fail]).Inv :=
  inv_of_check (filled_wf 0) (by decide)

/-- Each decode fault, at the ends of the reserved codes and of the offsets, and a transport fault with chip-select. -/
theorem witness_FaultEntryIsExact :
    (∀ x ∈ [(0x0FFFFFFF#32, FaultCode.illegalOp), (0x80000000, .illegalOp), (0x10000001, .reservedBits),
        (0x60040000, .fbRange)],
      ∃ t : State, (idleBlock demoConfig [x.1] []).Inv ∧ step (idleBlock demoConfig [x.1] []) = .next t
        ∧ (idleBlock demoConfig [x.1] []).sess ≠ .faulted ∧ t.sess = .faulted ∧ t.faultCode = x.2)
      ∧ ∃ s t : State, s.Inv ∧ step s = .next t ∧ s.sess ≠ .faulted ∧ t.sess = .faulted ∧ s.cfg.hasCs = true := by
  refine ⟨fun x hx => ?_, ⟨_, _, bracket_inv, rfl, by decide, rfl, rfl⟩⟩
  simp only [List.mem_cons, List.not_mem_nil, or_false] at hx
  rcases hx with rfl | rfl | rfl | rfl
  all_goals exact ⟨_, idle_inv _ _, rfl, by decide, rfl, rfl⟩

theorem faulted_inv (code : FaultCode) (h : code ≠ .none) : (faultedBlock code).Inv :=
  inv_of_check (filled_wf 0) (by cases code <;> first | exact absurd rfl h | decide)

theorem witness_StatusTellsTheHost :
    (∃ t : State, (idleBlock demoConfig [0x50000000] []).Inv ∧ step (idleBlock demoConfig [0x50000000] []) = .next t
        ∧ t.hostWords ≠ [0x50000000] ∧ (idleBlock demoConfig [0x50000000] []).status = 0x02)
      ∧ ∀ code : FaultCode, code ≠ .none → (faultedBlock code).Inv ∧ (faultedBlock code).sess = .faulted
        ∧ (faultedBlock code).status &&& 0x03 = 0x03 ∧ ∃ t : State, step (faultedBlock code) = .next t :=
  ⟨⟨_, idle_inv _ _, rfl, by decide, by decide⟩, fun code h =>
    ⟨faulted_inv code h, rfl, by cases code <;> decide, _, rfl⟩⟩

theorem witness_UnadmittedConfigurationsAreRefused :
    ({ demoConfig with hasCd := false }).hasCd = false ∧ ({ demoConfig with resetHoldMs := 99 }).resetHoldMs < 100
      ∧ ({ demoConfig with sclkHz := 0 }).sclkHz = 0
      ∧ demoConfig.hasCd = true ∧ 100 ≤ demoConfig.resetHoldMs ∧ 0 < demoConfig.sclkHz := by decide

theorem witness_ConfigurationNeverChanges :
    ∃ s t : State, step s = .next t ∧ s.clockRate = s.cfg.sclkHz :=
  ⟨workingBlock demoConfig [.busConfig] [], _, rfl, rfl⟩

/-- A waiting block steps, whatever word it is given. -/
theorem idle_steps (w : Word) : ∃ t : State, step (idleBlock demoConfig [w] []) = .next t := by
  rw [step_accepts (idle_waiting demoConfig [w] [] (by decide)) rfl]
  unfold acceptWord
  split
  · exact (exec_move _ _).imp fun _ h => h.1
  · exact ⟨_, rfl⟩

theorem witness_BufferStaysWhole : ∃ s t : State, s.fb.wf ∧ step s = .next t :=
  ⟨idleBlock demoConfig [0x6003FF55] [], (idle_steps _).choose, filled_wf 0, (idle_steps _).choose_spec⟩

theorem witness_OnlyFbWriteChangesTheBuffer :
    ∃ s t : State, step s = .next t ∧ s.rstN.head? ≠ some .low :=
  ⟨idleBlock demoConfig [0x6003FF55] [], (idle_steps _).choose, (idle_steps _).choose_spec, by decide⟩

theorem witness_FbWriteStoresOneByte : (filled 0).wf ∧ (1023#16).toNat < 1024 := ⟨filled_wf 0, by decide⟩

theorem witness_FbReadReturnsTheByte : (filled 0).wf ∧ (0#16).toNat < 1024 := ⟨filled_wf 0, by decide⟩

theorem witness_BufferOffsetOutOfRangeFaults : (filled 0).wf ∧ 1024 ≤ (1024#16).toNat ∧ 1024 ≤ (0xFFFF#16).toNat :=
  ⟨filled_wf 0, by decide⟩

theorem witness_ReadAfterWriteRespondsWithTheByte :
    let s := idleBlock demoConfig [0x6003FF55, 0x7003FF00] []
    s.Waiting ∧ s.fb.wf ∧ (1023#16).toNat < 1024
      ∧ s.hostWords = [BitVec.ofNat 32 (0x60000000 + (1023#16).toNat * 256 + (0x55#8).toNat),
        BitVec.ofNat 32 (0x70000000 + (1023#16).toNat * 256)] :=
  ⟨idle_waiting _ _ _ (by decide), filled_wf 0, by decide, by decide⟩

theorem witness_PagesPartitionTheBuffer : (filled 0).wf := filled_wf 0

theorem witness_PixelMapIsBijective :
    (filled 0).wf ∧ (127 < 128 ∧ 63 < 64) ∧ (1023 < 1024 ∧ 7 < 8) ∧ (128 ≤ 128 ∨ 64 ≤ 0) ∧ (128 ≤ 0 ∨ 64 ≤ 64) :=
  ⟨filled_wf 0, by decide⟩

theorem witness_VerticalByteLayout : (filled 0).wf ∧ 7 < 8 ∧ 127 < 128 := ⟨filled_wf 0, by decide⟩

/-- T-FB-3 as the host would run it. -/
theorem witness_PixelSetReadsBack :
    let s := idleBlock demoConfig [0x70024000, 0x60024020, 0x70024000] []
    s.Waiting ∧ s.fb.wf ∧ s.fb.read (pixOffset 64 37) = some 0x00
      ∧ assemble (.fbRd (pixOffset 64 37)) = some 0x70024000
      ∧ assemble (.fbWr (pixOffset 64 37) (byteWithBit 0x00 (pixBit 64 37) 1).toNat) = some 0x60024020
      ∧ s.hostWords = [0x70024000, 0x60024020, 0x70024000] :=
  ⟨idle_waiting _ _ _ (by decide), filled_wf 0, Memory.read_ofFn (fun _ => 0) (by decide), by decide, by decide, rfl⟩

theorem witness_PseudoOperationsExpand : (127 < 128 ∧ 63 < 64) ∧ (128 ≤ 128 ∨ 64 ≤ 0) ∧ (128 ≤ 0 ∨ 64 ≤ 64) := by decide

theorem witness_AssemblerWords :
    (65535 ≤ 65535 ∧ 65535 < 65536) ∧ (1 ≤ 1 ∧ 1 < 2) ∧ (255 ≤ 255 ∧ 255 < 256)
      ∧ (2 ^ 32 - 1 < 2 ^ 32 ∧ 2 ^ 32 ≤ 2 ^ 32) := by decide

theorem witness_SendBufferLoadsEightPages : (idleBlock demoConfig [] []).fb.wf := filled_wf 0

theorem witness_ReservedCodesRaiseIllegalOp :
    (Instr.illegalOpF 0xFFFFFFF, 0xF) ∈ [(Instr.illegalOp0 0xFFFFFFF, 0x0), (.illegalOpF 0xFFFFFFF, 0xF)] := by decide

theorem witness_WireCommandsBecomeTheWriteInFlight :
    (Instr.w16ColumnHigh 15, [BitVec.ofNat 8 (0x10 + (15#4).toNat)]) ∈ [(Instr.w16ColumnHigh 15, [0x1F#8])] := by decide

/-- One operation of each shape: no store, a store, a fault, a wire command. -/
theorem witness_MeaningsLeaveTheRestUnchanged :
    ∀ i ∈ [Instr.setInverse 1, .fbWrite 1023 0x55, .illegalOp0 0, .w13DisplayOn],
      ∃ t : State, exec i (idleBlock demoConfig [] []) = .next t ∧ (idleBlock demoConfig [] []).sess ≠ .faulted :=
  fun i _ => (exec_move i _).imp fun _ h => ⟨h.1, by decide⟩

theorem witness_OperandValuesNeverFault :
    (∀ w : Word, (idleBlock demoConfig [w] []).Waiting)
      ∧ 0x2000FFFF#32 = BitVec.ofNat 32 (0x20000000 + (0xFFFF#16).toNat)
      ∧ 0x4000FFFF#32 = BitVec.ofNat 32 (0x40000000 + (0xFF#8).toNat * 256 + (0xFF#8).toNat) :=
  ⟨fun _ => idle_waiting _ _ _ (by decide), by decide, by decide⟩

theorem witness_FramingFollowsTheConfiguration : demoConfig.hasCs = true ∧ bareConfig.hasCs = false := by decide

theorem witness_NoChipSelectNoChipSelectEvents :
    bareConfig.hasCs = false
      ∧ ∃ s t : State, s.Inv ∧ s.cfg.hasCs = false ∧ step s = .next t :=
  ⟨rfl, ⟨workingBlock bareConfig [.busConfig] [], _, inv_of_check (filled_wf 0) (by decide), rfl, rfl⟩⟩

/-- A complete write and a failed one. -/
theorem witness_EveryWriteFollowsItsOwnBusConfig :
    (∃ s t : State, s.Inv ∧ step s = .next t ∧ t.trace = s.trace ++ [.write [0xE2]])
      ∧ ∃ s t : State, s.Inv ∧ step s = .next t ∧ t.trace = s.trace ++ [.writeFault [0xE2]] :=
  ⟨⟨bracketBlock (.write [0xE2]) [.lineSet .cs .high] [.ok], _, inv_of_check (filled_wf 0) (by decide), rfl, rfl⟩,
    ⟨_, _, bracket_inv, rfl, rfl⟩⟩

/-- The same states, the second a data transaction of a whole page. -/
theorem witness_WritesAreCommandsOrPages :
    (∃ s t : State, s.Inv ∧ step s = .next t ∧ t.trace = s.trace ++ [.writeFault [0xE2]] ∧ s.cfg.hasCs = true)
      ∧ ∃ s t : State, s.Inv ∧ step s = .next t ∧ t.trace = s.trace ++ [.write (List.replicate 128 0)] :=
  ⟨⟨_, _, bracket_inv, rfl, rfl, rfl⟩,
    ⟨{ bracketBlock (.write (List.replicate 128 0)) [.lineSet .cs .high] [.ok] with lvlCd := .driven .high }, _,
      inv_of_check (filled_wf 0) (by decide +kernel), rfl, rfl⟩⟩

theorem witness_EventCountsOfWholeOperations :
    (∃ s t : State, exec .init s = .next t) ∧ ∃ s t : State, exec .sendBuffer s = .next t :=
  ⟨⟨idleBlock demoConfig [] [], _, rfl⟩, ⟨idleBlock demoConfig [] [], _, rfl⟩⟩

theorem witness_StepKeepsInvariant : ∃ s t : State, s.Inv ∧ step s = .next t := ⟨_, _, bracket_inv, rfl⟩

theorem witness_SessionChangesOnlyAsListed :
    (∃ s t : State, s.Inv ∧ step s = .next t ∧ s.rstN.head? ≠ some .low)
      ∧ ∃ s t : State, s.Inv ∧ step s = .next t ∧ s.rstN.head? = some .low :=
  ⟨⟨_, _, bracket_inv, rfl, by decide⟩,
    ⟨{ idleBlock demoConfig [] [] with rstN := [.low] }, _, inv_of_check (filled_wf 0) (by decide), rfl, rfl⟩⟩

theorem witness_CommandDataHeldWhileChipSelectAsserted :
    (∃ s t : State, s.Inv ∧ s.csAsserted = true ∧ step s = .next t ∧ s.rstN.head? ≠ some .low)
      ∧ demoConfig.hasCs = true :=
  ⟨⟨_, _, bracket_inv, by decide, rfl, by decide⟩, rfl⟩

theorem witness_TraceOnlyGrows :
    (∃ s t : State, step s = .next t ∧ s.busy = false) ∧ ∃ s t : State, step s = .next t ∧ s.busy = true :=
  ⟨⟨idleBlock demoConfig [] [], _, rfl, rfl⟩, ⟨workingBlock demoConfig [.busConfig] [], _, rfl, rfl⟩⟩

theorem witness_ResetGivesTheResetValues :
    let s := { workingBlock demoConfig [.busConfig] [] with rstN := [.low] }
    configRefusal s.cfg = none ∧ s.rstN = [.low] := by decide

theorem witness_ResetAbandonsTheOperation :
    let s := { bracketBlock (.write [0xE2]) [] [.ok] with rstN := [.low, .low, .high] }
    configRefusal s.cfg = none ∧ s.rstN = List.replicate 2 .low ++ [.high] := by decide

theorem witness_AnsweredOperationRunsToCompletion :
    let s := workingBlock demoConfig (frameCmd demoConfig [0xAF]) [.ok, .fail]
    s.Working ∧ s.clockRate = s.cfg.sclkHz ∧ (∀ a ∈ s.seq, ∀ l, a.line? = some l → hasLine s.cfg l = true)
      ∧ .setSess .faulted ∉ s.seq ∧ s.answers = List.replicate (writesOf s.seq).length .ok ++ [.fail] :=
  ⟨working_working _ _ _ (by decide), rfl, fun _ _ l _ => by cases l <;> rfl, by decide, by decide⟩

theorem witness_FailedWriteEndsTheOperation :
    let before := frameCmd demoConfig [0xAF] ++ [.busConfig]
    let s := workingBlock demoConfig (before ++ [.busWrite [0xB0], .busConfig]) [.ok, .fail]
    s.Working ∧ s.clockRate = s.cfg.sclkHz ∧ s.seq = before ++ .busWrite [0xB0] :: [.busConfig]
      ∧ (∀ a ∈ before, ∀ l, a.line? = some l → hasLine s.cfg l = true) ∧ .setSess .faulted ∉ before
      ∧ s.answers = List.replicate (writesOf before).length .ok ++ .fail :: [] :=
  ⟨working_working _ _ _ (by decide), rfl, by decide, fun _ _ l _ => by cases l <;> rfl, by decide, by decide⟩

/-- The reset values, with all writes answered, and with the last of the sixteen failing. -/
theorem witness_ConstructionReachesReadyOrFaulted :
    (∀ as : List TransportAnswer, configRefusal demoConfig = none
        ∧ State.AtReset { State.constructed demoConfig .csRstCd (filled 0xA5) with answers := as })
      ∧ (lineConfigs demoConfig).Perm (lineConfigs demoConfig) ∧ 15 < 16
      ∧ List.replicate 15 TransportAnswer.ok ++ .fail :: [] ≠ List.replicate 16 .ok :=
  ⟨fun _ => ⟨by decide, filled_wf _, rfl, rfl, rfl, rfl, rfl, rfl, ⟨.csRstCd, rfl⟩, rfl, rfl, rfl, rfl, rfl, rfl,
      (by decide : (State.constructed demoConfig .csRstCd (filled 0xA5)).status = 0x04)⟩,
    .refl _, by decide, by decide⟩

theorem witness_SendBufferTransfersThePages :
    let s := idleBlock demoConfig [0x50000000] (List.replicate 32 .ok)
    s.Inv ∧ s.Waiting ∧ s.hostWords = [0x50000000] ∧ s.answers = List.replicate 32 .ok ++ [] :=
  ⟨idle_inv _ _, idle_waiting _ _ _ (by decide), rfl, rfl⟩

theorem witness_RepeatedContrastOnlyExtendsTheTrace :
    let s := idleBlock demoConfig [0x2000012C, 0x2000012C] [.ok, .ok]
    s.Inv ∧ s.Waiting ∧ 0x2000012C#32 = BitVec.ofNat 32 (0x20000000 + (300#16).toNat)
      ∧ s.hostWords = [0x2000012C, 0x2000012C] ∧ s.answers = [.ok, .ok] :=
  ⟨idle_inv _ _, idle_waiting _ _ _ (by decide), by decide, rfl, rfl⟩

theorem witness_HostOperationRunsToItsResponse :
    ∃ t : State, (idleBlock demoConfig [0x30000001] [.ok]).Inv ∧ (idleBlock demoConfig [0x30000001] [.ok]).Waiting
      ∧ step (idleBlock demoConfig [0x30000001] [.ok]) = .next t ∧ t.sess = .ready
      ∧ [TransportAnswer.ok] = List.replicate (writesOf t.seq).length .ok ++ [] :=
  ⟨_, idle_inv _ _, idle_waiting _ _ _ (by decide), rfl, rfl, by decide⟩

theorem witness_BitOrderIsReadByNothing : ∃ s t : State, step s = .next t :=
  ⟨workingBlock demoConfig [.busConfig] [], _, rfl⟩

end Sys2Proof.Machine
end

section
/-! PROOFS. The configuration of a block (00_scope.md R8): which configurations run, that no step changes one, and that
`BIT_ORDER` is read by nothing. -/

namespace Sys2Proof.Machine

/-! ### Which configurations are refused (R75, R112, R113) -/

theorem configRefusal_of_noCd {c : Config} (h : c.hasCd = false) : configRefusal c = some .noCommandDataLine := if_pos h

theorem configRefusal_of_shortHold {c : Config} (hcd : c.hasCd = true) (h : c.resetHoldMs < 100) :
    configRefusal c = some .resetHoldTooShort := by
  simp [configRefusal, hcd, h]

theorem configRefusal_of_noClock {c : Config} (hcd : c.hasCd = true) (hhold : 100 ≤ c.resetHoldMs) (h : c.sclkHz = 0) :
    configRefusal c = some .clockRateNotPositive := by
  simp [configRefusal, hcd, Nat.not_lt.mpr hhold, h]

theorem configRefusal_of_admitted {c : Config} (hcd : c.hasCd = true) (hhold : 100 ≤ c.resetHoldMs) (h : 0 < c.sclkHz) :
    configRefusal c = none := by
  simp [configRefusal, hcd, Nat.not_lt.mpr hhold, h.ne']

theorem step_of_configRefused {s : State} {r : Refusal} (h : configRefusal s.cfg = some r) : step s = .refused r := by
  simp [step, guardedStep, h]

theorem step_of_configAdmitted {s : State} (h : configRefusal s.cfg = none) : step s = sampleReset s := by
  simp [step, guardedStep, h]

/-! ### Nothing below the configuration guard refuses -/

theorem exec_ne_refused (i : Instr) (s : State) (r : Refusal) : exec i s ≠ .refused r := by
  obtain ⟨t, ht, -⟩ := exec_move i s
  simp [ht]

theorem lineAction_ne_refused (l : Line) (v : Level) (e : Event) (s : State) (r : Refusal) :
    lineAction l v e s ≠ .refused r := by
  unfold lineAction
  split <;> nofun

theorem doAction_ne_refused (a : Action) (s : State) (r : Refusal) : doAction a s ≠ .refused r := by
  cases a with
  | lineConfig l v | lineSet l v => exact lineAction_ne_refused l v _ s r
  | busConfig | busWrite | wait | setSess => nofun

theorem sequencerStep_ne_refused (s : State) (r : Refusal) : sequencerStep s ≠ .refused r := by
  unfold sequencerStep
  split
  · nofun
  · rw [runAction_eq]
    exact doAction_ne_refused _ _ r

theorem transportStep_ne_refused (bs : List Byte) (s : State) (r : Refusal) : transportStep bs s ≠ .refused r := by
  unfold transportStep
  split <;> nofun

theorem busyStep_ne_refused (s : State) (r : Refusal) : busyStep s ≠ .refused r := by
  unfold busyStep
  split
  · exact sequencerStep_ne_refused s r
  · exact transportStep_ne_refused _ s r
  · nofun

theorem acceptWord_ne_refused (w : Word) (later : List Word) (s : State) (r : Refusal) :
    acceptWord w later s ≠ .refused r := by
  unfold acceptWord
  split
  · exact exec_ne_refused _ _ r
  · nofun

theorem idleStep_ne_refused (s : State) (r : Refusal) : idleStep s ≠ .refused r := by
  unfold idleStep
  split
  · nofun
  · split
    · exact acceptWord_ne_refused _ _ s r
    · nofun

theorem blockStep_ne_refused (s : State) (r : Refusal) : blockStep s ≠ .refused r := by
  unfold blockStep
  split
  · nofun
  · split
    · exact busyStep_ne_refused s r
    · exact idleStep_ne_refused s r

theorem sampleReset_ne_refused (s : State) (r : Refusal) : sampleReset s ≠ .refused r := by
  unfold sampleReset
  split
  · exact blockStep_ne_refused _ r
  · nofun
  · exact blockStep_ne_refused _ r

/-! ### No step writes the configuration or the clock rate register (R8, 10_state.md R18) -/

theorem ExecMove.keeps_cfg_clockRate {s t : State} (h : ExecMove s t) : t.cfg = s.cfg ∧ t.clockRate = s.clockRate := by
  cases h with
  | load | store | send => exact ⟨rfl, rfl⟩
  | fault code w => exact ⟨State.raiseFault_cfg .., State.raiseFault_clockRate ..⟩

theorem doAction_keeps_cfg_clockRate {a : Action} {s t : State} (h : doAction a s = .next t) :
    t.cfg = s.cfg ∧ t.clockRate = s.clockRate := by
  obtain ⟨l, v, -, -, rfl⟩ | ⟨l, v, -, -, rfl⟩ | ⟨-, rfl⟩ | ⟨bs, -, rfl⟩ | ⟨ms, -, rfl⟩ | ⟨x, -, rfl⟩ := doAction_next h <;>
    simp

theorem transportStep_keeps_cfg_clockRate {bs : List Byte} {s t : State} (h : transportStep bs s = .next t) :
    t.cfg = s.cfg ∧ t.clockRate = s.clockRate := by
  obtain ⟨later, -, rfl⟩ | ⟨later, -, rfl⟩ | ⟨-, -, rfl⟩ := transportStep_next h <;> simp

theorem BlockMove.keeps_cfg_clockRate {s t : State} (h : BlockMove s t) : t.cfg = s.cfg ∧ t.clockRate = s.clockRate := by
  cases h with
  | quiet | timer => exact ⟨rfl, rfl⟩
  | accept w later i t hs hb hw hd hm he => exact hm.keeps_cfg_clockRate
  | reject | complete => simp
  | action a rest t hb hn hp hq hd => exact doAction_keeps_cfg_clockRate (s := { s with seq := rest }) hd
  | transport bs t hb hn hp ht => exact transportStep_keeps_cfg_clockRate ht

/-! ### The same block with another `BIT_ORDER` (R8, 20_memory.md R40) -/

/-- The same block, built with another `BIT_ORDER`. -/
def State.withBitOrder (b : BitOrder) (s : State) : State := { s with cfg := { s.cfg with bitOrder := b } }

/-- The same outcome, of the block built with another `BIT_ORDER`. -/
def Result.withBitOrder (b : BitOrder) : Result → Result
  | .next s => .next (s.withBitOrder b)
  | .fault r => .fault r
  | .refused r => .refused r

variable (b : BitOrder) (s : State)

@[simp] theorem Result.withBitOrder_next : Result.withBitOrder b (.next s) = .next (s.withBitOrder b) := rfl

/-! What the step function reads of a state is not changed by `withBitOrder`. -/

@[simp] theorem State.withBitOrder_fb : (s.withBitOrder b).fb = s.fb := rfl
@[simp] theorem State.withBitOrder_sess : (s.withBitOrder b).sess = s.sess := rfl
@[simp] theorem State.withBitOrder_busy : (s.withBitOrder b).busy = s.busy := rfl
@[simp] theorem State.withBitOrder_fromHost : (s.withBitOrder b).fromHost = s.fromHost := rfl
@[simp] theorem State.withBitOrder_seq : (s.withBitOrder b).seq = s.seq := rfl
@[simp] theorem State.withBitOrder_pending : (s.withBitOrder b).pending = s.pending := rfl
@[simp] theorem State.withBitOrder_hostWords : (s.withBitOrder b).hostWords = s.hostWords := rfl
@[simp] theorem State.withBitOrder_answers : (s.withBitOrder b).answers = s.answers := rfl
@[simp] theorem State.withBitOrder_rstN : (s.withBitOrder b).rstN = s.rstN := rfl

@[simp] theorem configRefusal_withBitOrder : configRefusal (s.withBitOrder b).cfg = configRefusal s.cfg := rfl

/-! Every operation the step is made of commutes with `withBitOrder`. -/

theorem respondToHost_withBitOrder (r : Response) :
    (s.withBitOrder b).respondToHost r = (s.respondToHost r).withBitOrder b := by
  cases h : s.fromHost with
  | true => simp only [State.respondToHost, State.withBitOrder_fromHost, h, if_true]; rfl
  | false => simp [State.respondToHost, h]

theorem raiseFault_withBitOrder (code : FaultCode) (w : Word) :
    (s.withBitOrder b).raiseFault code w = (s.raiseFault code w).withBitOrder b :=
  respondToHost_withBitOrder b (s.enterFault code w) _

theorem complete_withBitOrder : (s.withBitOrder b).complete = s.complete.withBitOrder b :=
  respondToHost_withBitOrder b { s with busy := false } _

theorem resetBlock_withBitOrder : (s.withBitOrder b).resetBlock = s.resetBlock.withBitOrder b := by
  have hseq (o : LineOrder) : construction (s.withBitOrder b).cfg o = construction s.cfg o := rfl
  simp only [State.resetBlock, State.constructed, hseq]
  rfl

theorem lineAction_withBitOrder (l : Line) (v : Level) (e : Event) :
    lineAction l v e (s.withBitOrder b) = Result.withBitOrder b (lineAction l v e s) := by
  have hline : hasLine (s.withBitOrder b).cfg l = hasLine s.cfg l := by cases l <;> rfl
  have hdrive : (s.withBitOrder b).driveLine l v = (s.driveLine l v).withBitOrder b := by cases l <;> rfl
  simp only [lineAction, hline, hdrive]
  split <;> rfl

theorem doAction_withBitOrder (a : Action) :
    doAction a (s.withBitOrder b) = Result.withBitOrder b (doAction a s) := by
  cases a with
  | lineConfig l v | lineSet l v => exact lineAction_withBitOrder ..
  | busConfig | busWrite | wait | setSess => rfl

theorem transportStep_withBitOrder (bs : List Byte) :
    transportStep bs (s.withBitOrder b) = Result.withBitOrder b (transportStep bs s) := by
  simp only [transportStep, State.withBitOrder_answers]
  split
  · rfl
  · next later _ =>
    exact congrArg _ (raiseFault_withBitOrder b { s.emit (.writeFault bs) with answers := later } .transportFault s.curOp)
  · rfl
  · rfl

theorem exec_withBitOrder (i : Instr) : exec i (s.withBitOrder b) = Result.withBitOrder b (exec i s) := by
  cases i with
  | fbWrite off d =>
    simp only [exec, execFbWrite, State.withBitOrder_fb]
    split
    · rfl
    · rw [raiseFault_withBitOrder, Result.withBitOrder_next]
  | fbRead off =>
    simp only [exec, execFbRead, State.withBitOrder_fb]
    split
    · rfl
    · rw [raiseFault_withBitOrder, Result.withBitOrder_next]
  | illegalOp0 | illegalOp8 | illegalOp9 | illegalOpA | illegalOpB | illegalOpC | illegalOpD | illegalOpE
  | illegalOpF => exact congrArg _ (raiseFault_withBitOrder ..)
  | _ => rfl

theorem sequencerStep_withBitOrder : sequencerStep (s.withBitOrder b) = Result.withBitOrder b (sequencerStep s) := by
  simp only [sequencerStep, State.withBitOrder_seq]
  split
  · rw [complete_withBitOrder, Result.withBitOrder_next]
  · next a rest _ =>
    rw [runAction_eq, runAction_eq]
    exact doAction_withBitOrder b { s with seq := rest } a

theorem busyStep_withBitOrder : busyStep (s.withBitOrder b) = Result.withBitOrder b (busyStep s) := by
  simp only [busyStep, State.withBitOrder_pending]
  split
  · exact sequencerStep_withBitOrder ..
  · exact transportStep_withBitOrder ..
  · rfl

theorem acceptWord_withBitOrder (w : Word) (later : List Word) :
    acceptWord w later (s.withBitOrder b) = Result.withBitOrder b (acceptWord w later s) := by
  unfold acceptWord
  split
  · exact exec_withBitOrder b (s.accepted w later) _
  · exact congrArg _ (raiseFault_withBitOrder b (s.accepted w later) _ w)

theorem idleStep_withBitOrder : idleStep (s.withBitOrder b) = Result.withBitOrder b (idleStep s) := by
  simp only [idleStep, State.withBitOrder_hostWords]
  split
  · rfl
  · by_cases hr : s.sess = .ready
    · simp [hr, acceptWord_withBitOrder]
    · simp [hr]

theorem blockStep_withBitOrder : blockStep (s.withBitOrder b) = Result.withBitOrder b (blockStep s) := by
  by_cases hf : s.sess = .faulted
  · simp [blockStep, hf]
  · cases hb : s.busy with
    | true => simp [blockStep, hf, hb, busyStep_withBitOrder]
    | false => simp [blockStep, hf, hb, idleStep_withBitOrder]

theorem sampleReset_withBitOrder : sampleReset (s.withBitOrder b) = Result.withBitOrder b (sampleReset s) := by
  simp only [sampleReset, State.withBitOrder_rstN]
  split
  · exact blockStep_withBitOrder ..
  · next later _ => exact congrArg _ (resetBlock_withBitOrder b { s with rstN := later })
  · next later _ => exact blockStep_withBitOrder b { s with rstN := later }

theorem step_withBitOrder : step (s.withBitOrder b) = Result.withBitOrder b (step s) := by
  simp only [step, guardedStep, configRefusal_withBitOrder]
  split
  · rfl
  · exact sampleReset_withBitOrder ..

end Sys2Proof.Machine
end

section
/-! PROOFS. The statements of the family 00_scope.md, settled. -/

namespace Sys2Proof.Machine

/-- Settles O19: each move of the block out of reset keeps both fields, and a reset reloads CLOCK_RATE from the parameter. -/
theorem configurationNeverChanges : Obligations.ConfigurationNeverChanges := by
  intro s t h
  obtain ⟨-, ⟨later, -, rfl⟩ | ⟨-, hm⟩⟩ := step_next h
  · exact ⟨rfl, fun _ => rfl⟩
  · obtain ⟨hcfg, hclock⟩ := hm.keeps_cfg_clockRate
    exact ⟨hcfg, fun hs => by rw [hclock, hcfg]; exact hs⟩

/-- Settles O59: the step commutes with the change of BIT_ORDER, function by function. -/
theorem bitOrderIsReadByNothing : Obligations.BitOrderIsReadByNothing := by
  intro s t b h
  calc step (s.withBitOrder b)
      = Result.withBitOrder b (step s) := step_withBitOrder b s
    _ = .next (t.withBitOrder b) := by rw [h, Result.withBitOrder_next]

/-- Settles O18: the guard refuses each such configuration by its name, and nothing below the guard refuses. -/
theorem unadmittedConfigurationsAreRefused : Obligations.UnadmittedConfigurationsAreRefused := by
  refine ⟨fun s hcd => ?_, fun s hcd hhold => ?_, fun s hcd hhold hclk => ?_, fun s hcd hhold hclk r => ?_⟩
  · exact step_of_configRefused (configRefusal_of_noCd hcd)
  · exact step_of_configRefused (configRefusal_of_shortHold hcd hhold)
  · exact step_of_configRefused (configRefusal_of_noClock hcd hhold hclk)
  · rw [step_of_configAdmitted (configRefusal_of_admitted hcd hhold hclk)]
    exact sampleReset_ne_refused s r

end Sys2Proof.Machine
end

section
/-! PROOFS. The host operation words as numbers (30_encoding.md R53), and what decode says of a word: the word is the
encoding of the operation it decodes to. -/

namespace Sys2Proof

/-! ### The numeric value of a word's fields -/

theorem opField_toNat (w : Word) : (opField w).toNat = w.toNat / 2 ^ 28 := by
  have := w.isLt
  simp only [opField, BitVec.extractLsb'_toNat, Nat.shiftRight_eq_div_pow]
  omega

theorem opWord_toNat (op : BitVec 4) (rest : BitVec 28) : (opWord op rest).toNat = op.toNat * 2 ^ 28 + rest.toNat := by
  have hop : op.toNat * 2 ^ 28 % 2 ^ 32 = op.toNat * 2 ^ 28 := by omega
  simp only [opWord, BitVec.toNat_or, BitVec.toNat_shiftLeft, BitVec.toNat_setWidth_of_le (show 4 ≤ 32 by omega),
    BitVec.toNat_setWidth_of_le (show 28 ≤ 32 by omega), Nat.shiftLeft_eq, hop]
  rw [← Nat.shiftLeft_eq, ← Nat.shiftLeft_add_eq_or_of_lt rest.isLt, Nat.shiftLeft_eq]

theorem overByte_toNat (u : BitVec 16) (l : Byte) : (overByte u l).toNat = u.toNat * 256 + l.toNat := by
  have hu : u.toNat * 2 ^ 8 % 2 ^ 28 = u.toNat * 2 ^ 8 := by omega
  simp only [overByte, BitVec.toNat_or, BitVec.toNat_shiftLeft, BitVec.toNat_setWidth_of_le (show 16 ≤ 28 by omega),
    BitVec.toNat_setWidth_of_le (show 8 ≤ 28 by omega), Nat.shiftLeft_eq, hu]
  rw [← Nat.shiftLeft_eq, ← Nat.shiftLeft_add_eq_or_of_lt l.isLt, Nat.shiftLeft_eq]

/-- The word the assembler writes for `SET_CONTRAST V`. -/
theorem contrastWord_eq (v : BitVec 16) : BitVec.ofNat 32 (0x20000000 + v.toNat) = opWord 0x2 (v.setWidth 28) := by
  apply BitVec.eq_of_toNat_eq
  rw [opWord_toNat, BitVec.toNat_setWidth_of_le (by omega), BitVec.toNat_ofNat,
    show (0x2 : BitVec 4).toNat = 2 from rfl]
  omega

/-- The word the assembler writes for `SET_CURSOR P C`. -/
theorem cursorWord_eq (p c : Byte) :
    BitVec.ofNat 32 (0x40000000 + p.toNat * 256 + c.toNat) = opWord 0x4 (overByte (p.setWidth 16) c) := by
  apply BitVec.eq_of_toNat_eq
  rw [opWord_toNat, overByte_toNat, BitVec.toNat_setWidth_of_le (by omega), BitVec.toNat_ofNat,
    show (0x4 : BitVec 4).toNat = 4 from rfl]
  omega

/-! ### `decode` and its two halves -/

@[simp] theorem decode_host_ok {w : Word} {i : Instr} : decode (.host w) = .ok i ↔ decodeHost w = .ok i := by
  cases h : decodeHost w <;> simp [decode, h]

@[simp] theorem decode_host_error {w : Word} {r : WordReject} :
    decode (.host w) = .error (.word r) ↔ decodeHost w = .error r := by
  cases h : decodeHost w <;> simp [decode, h]

@[simp] theorem decode_wire_ok {bs : List Byte} {i : Instr} :
    decode (.wire bs) = .ok i ↔ decodeTransaction bs = .ok i := by
  cases h : decodeTransaction bs <;> simp [decode, h]

theorem decodeHost_setContrast (v : BitVec 16) : decodeHost (opWord 0x2 (v.setWidth 28)) = .ok (.setContrast v) := by
  have hmask : opWord 0x2#4 (v.setWidth 28) &&& 0x0FFF0000#32 = 0#32 := opWord_and _ _ _ (by decide) (value_clear v)
  simp [decodeHost, mustBeZero, hmask, selectOp, valueField_opWord, Instr.wellFormed]

theorem decodeHost_setCursor (p c : Byte) :
    decodeHost (opWord 0x4 (overByte (p.setWidth 16) c)) = .ok (.setCursor p c) := by
  have hmask : opWord 0x4#4 (overByte (p.setWidth 16) c) &&& 0x0FFF0000#32 = 0#32 :=
    opWord_and _ _ _ (by decide) (overByte_clear_cursor p c)
  simp [decodeHost, mustBeZero, hmask, selectOp, pageField_opWord, columnField_opWord, Instr.wellFormed]

/-! ### A word that decodes is its operation's encoding (R54, R56, R57) -/

/-- A bit of a word below its operation code is clear where the code's mask has it. -/
theorem getLsbD_of_masked {w m : Word} (h : w &&& m = 0) {i : Nat} (hm : m.getLsbD i = true) : w.getLsbD i = false := by
  have hb : (w &&& m).getLsbD i = false := by simp [h]
  simpa [hm] using hb

/-- A word is its code and its operand bits, whichever way those are put together. -/
theorem opWord_of_fields {w : Word} {op : BitVec 4} {rest : BitVec 28} (hop : opField w = op)
    (hrest : ∀ i : Fin 28, rest.getLsbD i = w.getLsbD i) : opWord op rest = w := by
  have hr : rest = restField w := by
    refine BitVec.eq_of_getLsbD_eq fun i hi => ?_
    simpa [restField, hi] using hrest ⟨i, hi⟩
  rw [hr, ← hop, opWord_fields]

theorem opWord_noOperand {w : Word} {op : BitVec 4} (hop : opField w = op) (hm : w &&& 0x0FFFFFFF = 0) :
    opWord op 0 = w := by
  refine opWord_of_fields hop fun i => ?_
  have hbit : ∀ i : Fin 28, (0x0FFFFFFF#32).getLsbD i = true := by decide
  simp [getLsbD_of_masked hm (hbit i)]

theorem opWord_value {w : Word} {op : BitVec 4} (hop : opField w = op) (hm : w &&& 0x0FFF0000 = 0) :
    opWord op ((valueField w).setWidth 28) = w := by
  refine opWord_of_fields hop fun i => ?_
  have hbit : ∀ i : Fin 28, 16 ≤ i.val → (0x0FFF0000#32).getLsbD i = true := by decide
  by_cases hi : i.val < 16
  · simp [valueField, hi]
  · simp [valueField, hi, getLsbD_of_masked hm (hbit i (by omega))]

theorem opWord_flag {w : Word} {op : BitVec 4} (hop : opField w = op) (hm : w &&& 0x0FFFFFFE = 0) :
    opWord op ((flagField w).setWidth 28) = w := by
  refine opWord_of_fields hop fun i => ?_
  have hbit : ∀ i : Fin 28, 1 ≤ i.val → (0x0FFFFFFE#32).getLsbD i = true := by decide
  by_cases hi : i.val < 1
  · simp [flagField, hi]
  · simp [flagField, hi, getLsbD_of_masked hm (hbit i (by omega))]

theorem opWord_cursor {w : Word} {op : BitVec 4} (hop : opField w = op) (hm : w &&& 0x0FFF0000 = 0) :
    opWord op (overByte ((pageField w).setWidth 16) (columnField w)) = w := by
  refine opWord_of_fields hop fun i => ?_
  have hbit : ∀ i : Fin 28, 16 ≤ i.val → (0x0FFF0000#32).getLsbD i = true := by decide
  by_cases hlow : i.val < 8
  · simp [overByte, columnField, hlow]
  · by_cases hi : i.val < 16
    · simp [overByte, pageField, columnField, hlow, show i.val - 8 < 8 by omega, show 8 + (i.val - 8) = i.val by omega]
    · simp [overByte, pageField, columnField, hlow, show ¬ i.val - 8 < 8 by omega,
        getLsbD_of_masked hm (hbit i (by omega))]

theorem opWord_store {w : Word} {op : BitVec 4} (hop : opField w = op) (hm : w &&& 0x0F000000 = 0) :
    opWord op (overByte (offsetField w) (dataField w)) = w := by
  refine opWord_of_fields hop fun i => ?_
  have hbit : ∀ i : Fin 28, 24 ≤ i.val → (0x0F000000#32).getLsbD i = true := by decide
  by_cases hlow : i.val < 8
  · simp [overByte, dataField, hlow]
  · by_cases hi : i.val < 24
    · simp [overByte, offsetField, dataField, hlow, show i.val - 8 < 16 by omega,
        show 8 + (i.val - 8) = i.val by omega]
    · simp [overByte, offsetField, dataField, hlow, show ¬ i.val - 8 < 16 by omega,
        getLsbD_of_masked hm (hbit i (by omega))]

theorem opWord_offset {w : Word} {op : BitVec 4} (hop : opField w = op) (hm : w &&& 0x0F0000FF = 0) :
    opWord op (overByte (offsetField w) 0) = w := by
  refine opWord_of_fields hop fun i => ?_
  have hbit : ∀ i : Fin 28, i.val < 8 ∨ 24 ≤ i.val → (0x0F0000FF#32).getLsbD i = true := by decide
  by_cases hlow : i.val < 8
  · simp [overByte, hlow, getLsbD_of_masked hm (hbit i (.inl hlow))]
  · by_cases hi : i.val < 24
    · simp [overByte, offsetField, hlow, show i.val - 8 < 16 by omega, show 8 + (i.val - 8) = i.val by omega]
    · simp [overByte, offsetField, hlow, show ¬ i.val - 8 < 16 by omega, getLsbD_of_masked hm (hbit i (by omega))]

/-- A word with its code's must-be-zero bits clear is the encoding of the operation it selects. -/
theorem encode_selectOp {w : Word} (hm : w &&& mustBeZero (opField w) = 0) : encode (selectOp w) = .host w := by
  have reserved {op : BitVec 4} (h : opField w = op) : Code.host (opWord op (restField w)) = .host w := by
    rw [← h, opWord_fields]
  have masked {op : BitVec 4} (h : opField w = op) : w &&& mustBeZero op = 0 := h ▸ hm
  exact selectOp_cases (P := fun i => encode i = .host w) w
    (fun h => congrArg _ (opWord_noOperand h (masked h))) (fun h => congrArg _ (opWord_value h (masked h)))
    (fun h => congrArg _ (opWord_flag h (masked h))) (fun h => congrArg _ (opWord_cursor h (masked h)))
    (fun h => congrArg _ (opWord_noOperand h (masked h))) (fun h => congrArg _ (opWord_store h (masked h)))
    (fun h => congrArg _ (opWord_offset h (masked h)))
    reserved reserved reserved reserved reserved reserved reserved reserved reserved

/-- What decode has checked of a word it reads as an operation. -/
theorem decodeHost_encodes {w : Word} {i : Instr} (h : decodeHost w = .ok i) :
    encode i = .host w ∧ i.wellFormed = true := by
  unfold decodeHost at h
  split at h
  · cases h
  next hm =>
  split at h
  · next hwf =>
    obtain rfl : selectOp w = i := by injection h
    exact ⟨encode_selectOp (by simpa using hm), hwf⟩
  · cases h

end Sys2Proof
end

section
/-! PROOFS. One equation for each situation a block can step from (10_state.md R23 to R28), what a host operation's
meaning can do (R26), and how a session path reads past an action (R20). -/

namespace Sys2Proof.Machine

/-! ### The updates of the model, assignment by assignment -/

theorem raiseFault_eq_withFault (code : FaultCode) (w : Word) (s : State) :
    s.raiseFault code w = s.withFault code w := by
  unfold State.raiseFault State.respondToHost State.withFault
  rw [State.enterFault_fromHost]
  by_cases h : s.fromHost = true
  · rw [if_pos h, if_pos h]; rfl
  · rw [if_neg h, if_neg h]; rfl

theorem complete_eq (s : State) :
    s.complete = { s with
      busy := false
      responses := if s.fromHost then s.responses ++ [s.resp.response] else s.responses } := by
  unfold State.complete State.respondToHost
  by_cases h : s.fromHost = true
  · rw [if_pos h, if_pos h]; rfl
  · rw [if_neg h, if_neg h]

/-! ### Steps, one equation for each situation -/

/-- With `rst_n` not sampled low, a step is the block's step with that sample taken (70_reset_and_hazards.md R105). -/
theorem step_notReset {s : State} (hc : configRefusal s.cfg = none) (hr : s.rstN.head? ≠ some .low) :
    step s = blockStep { s with rstN := s.rstN.tail } := by
  rw [step_of_configAdmitted hc]
  unfold sampleReset
  split
  · next h => rw [show ({ s with rstN := s.rstN.tail } : State) = s by rw [h, List.tail_nil, ← h]]
  · next later h => simp [h] at hr
  · next later h => rw [h, List.tail_cons]

/-- A step with `rst_n` sampled low is the block's reset (R105). -/
theorem step_reset {s : State} (hc : configRefusal s.cfg = none) {later : List Level} (hr : s.rstN = .low :: later) :
    step s = .next ({ s with rstN := later } : State).resetBlock := by
  simp [step_of_configAdmitted hc, sampleReset, hr]

theorem blockStep_faulted {s : State} (h : s.sess = .faulted) : blockStep s = .next s := by simp [blockStep, h]

theorem blockStep_busy {s : State} (hn : s.sess ≠ .faulted) (hb : s.busy = true) : blockStep s = busyStep s := by
  simp [blockStep, hn, hb]

theorem blockStep_accepts {s : State} (hs : s.sess = .ready) (hb : s.busy = false) {w : Word} {later : List Word}
    (hw : s.hostWords = w :: later) : blockStep s = acceptWord w later s := by
  simp [blockStep, hs, hb, idleStep, hw]

/-- A step with a write in flight is the transport's (R24). -/
theorem step_transport {s : State} (hc : configRefusal s.cfg = none) (hr : s.rstN = []) (hb : s.busy = true)
    (hn : s.sess ≠ .faulted) {bs : List Byte} (hp : s.pending = .write bs) : step s = transportStep bs s := by
  rw [step_released hc hr, blockStep_busy hn hb]
  simp [busyStep, hp]

/-- A step with a delay in flight is the timer's (R25). -/
theorem step_timer {s : State} (hc : configRefusal s.cfg = none) (hr : s.rstN = []) (hb : s.busy = true)
    (hn : s.sess ≠ .faulted) {ms : Nat} (hp : s.pending = .delay ms) : step s = timerStep ms s := by
  rw [step_released hc hr, blockStep_busy hn hb]
  simp [busyStep, hp]

theorem transportStep_ok {bs : List Byte} {s : State} {later : List TransportAnswer} (h : s.answers = .ok :: later) :
    transportStep bs s = .next { s with trace := s.trace ++ [.write bs], pending := .none, answers := later } := by
  simp [transportStep, h, State.emit]

theorem transportStep_fail {bs : List Byte} {s : State} {later : List TransportAnswer}
    (h : s.answers = .fail :: later) :
    transportStep bs s = .next (State.withFault .transportFault s.curOp
      { s with trace := s.trace ++ [.writeFault bs], answers := later }) := by
  simp [transportStep, h, State.emit, raiseFault_eq_withFault]

theorem transportStep_stall {bs : List Byte} {s : State} {later : List TransportAnswer}
    (h : s.answers = .stall :: later ∨ s.answers = []) : transportStep bs s = .next s := by
  rcases h with h | h <;> simp [transportStep, h]

/-- A state that steps to itself is where every run from it ends. -/
theorem runSteps_of_fixed {s : State} (h : step s = .next s) (k : Nat) : runSteps k s = .next s := by
  induction k with
  | zero => rfl
  | succ k ih => rw [runSteps_succ h, ih]

theorem acceptWord_ok {w : Word} {i : Instr} (hd : decodeHost w = .ok i) (later : List Word) (s : State) :
    acceptWord w later s = exec i (s.accepted w later) := by simp [acceptWord, hd]

theorem acceptWord_error {w : Word} {r : WordReject} (hd : decodeHost w = .error r) (later : List Word) (s : State) :
    acceptWord w later s = .next ((s.accepted w later).raiseFault (rejectFault r) w) := by simp [acceptWord, hd]

/-! ### What the meaning of a host operation can do -/

/-- A word whose operation code is reserved (30_encoding.md R58). -/
def ReservedCode (w : Word) : Prop := w.toNat / 2 ^ 28 = 0 ∨ 8 ≤ w.toNat / 2 ^ 28

/-- The ways the meaning of the host operation `i`, encoded as `w`, goes on. -/
inductive HostMove (i : Instr) (w : Word) (s : State) : State → Prop where
  /-- Whole transactions are loaded with a response (10_state.md R26, 41_framer.md R72, R73). -/
  | load (as : List Action) (r : Resp) (hr : r ≠ .none) (hwhole : s.fb.wf → WholeOperation s.cfg as) :
      HostMove i w s (s.load as r)
  /-- One byte is stored (40_buffer_access.md R66). -/
  | store (off : BitVec 16) (d : Byte) (hi : i = .fbWrite off d) :
      HostMove i w s ({ s with fb := s.fb.put off.toNat d }.load [] .ack)
  /-- The operation code is reserved (30_encoding.md R57). -/
  | illegal (h : ReservedCode w) : HostMove i w s (s.raiseFault .illegalOp w)
  /-- The buffer has no byte at the offset, which decode and a whole buffer rule out (R57; log entry 13). -/
  | range (h : i.wellFormed = true → ¬ s.fb.wf) : HostMove i w s (s.raiseFault .fbRange w)

theorem reservedCode_opWord {op : BitVec 4} {rest : BitVec 28} {w : Word} (h : Code.host (opWord op rest) = .host w)
    (hop : op.toNat = 0 ∨ 8 ≤ op.toNat) : ReservedCode w := by
  obtain rfl : opWord op rest = w := Code.host.inj h
  rwa [ReservedCode, ← opField_toNat, opField_opWord]

theorem hostWord_of_encode {i : Instr} {w : Word} (h : encode i = .host w) : i.hostWord = w := by
  simp [Instr.hostWord, h]

/-- Inside the buffer a byte is read, so none is missing there. -/
theorem not_wf_of_read_none {m : Memory} {off : BitVec 16} (h : m.read off.toNat = none)
    (hoff : off.toNat < fbSize) : ¬ m.wf := by
  intro hwf
  obtain ⟨b, hb⟩ := Memory.read_some hwf hoff
  simp [h] at hb

theorem exec_hostMove {i : Instr} {w : Word} (h : encode i = .host w) (s : State) :
    ∃ t, exec i s = .next t ∧ HostMove i w s t := by
  have hword : i.hostWord = w := hostWord_of_encode h
  cases i with
  | init => exact ⟨_, rfl, .load _ _ (by simp) fun _ => wholeOperation_init _⟩
  | setContrast v => exact ⟨_, rfl, .load _ _ (by simp) fun _ => wholeOperation_command _ (oneWireCommand_contrast v)⟩
  | setInverse f => exact ⟨_, rfl, .load _ _ (by simp) fun _ => wholeOperation_command _ (oneWireCommand_inverse f)⟩
  | setCursor p c => exact ⟨_, rfl, .load _ _ (by simp) fun _ => wholeOperation_cursor _ p c⟩
  | sendBuffer => exact ⟨_, rfl, .load _ _ (by simp) fun hwf => wholeOperation_sendBuffer _ hwf⟩
  | fbWrite off d =>
    cases hb : s.fb.read off.toNat with
    | some b => exact ⟨_, by simp [exec, execFbWrite, Memory.write, hb], .store off d rfl⟩
    | none =>
      refine ⟨_, by simp [exec, execFbWrite, Memory.write, hb, hword], .range fun hwf => ?_⟩
      exact not_wf_of_read_none hb (by simpa [Instr.wellFormed] using hwf)
  | fbRead off =>
    cases hb : s.fb.read off.toNat with
    | some b => exact ⟨_, by simp [exec, execFbRead, hb], .load [] (.data b) (by simp) fun _ => wholeOperation_nil _⟩
    | none =>
      refine ⟨_, by simp [exec, execFbRead, hb, hword], .range fun hwf => ?_⟩
      exact not_wf_of_read_none hb (by simpa [Instr.wellFormed] using hwf)
  | illegalOp0 | illegalOp8 | illegalOp9 | illegalOpA | illegalOpB | illegalOpC | illegalOpD | illegalOpE
  | illegalOpF =>
    exact ⟨_, congrArg (fun x => Host.Outcome.next (s.raiseFault .illegalOp x)) hword,
      .illegal (reservedCode_opWord h (by decide))⟩
  | _ => cases h

theorem exec_hostMove_of_next {i : Instr} {w : Word} {s t : State} (h : encode i = .host w) (he : exec i s = .next t) :
    HostMove i w s t := by
  obtain ⟨t', he', hm⟩ := exec_hostMove h s
  obtain rfl : t' = t := Host.Outcome.next.inj (he'.symm.trans he)
  exact hm

/-! ### Reading a session path -/

theorem sessionPath_cons (x : Sess) (a : Action) (as : List Action) :
    sessionPath x (a :: as) = ((a.sess?.all (sessStepAllowed x)) && sessionPath (a.sess?.getD x) as) := by
  cases a <;> simp [sessionPath, Action.sess?]

theorem not_sessStepAllowed_faulted (x : Sess) : sessStepAllowed x .faulted = false := by cases x <;> rfl

/-- A session path never sets FAULTED, which only a fault does (10_state.md R20). -/
theorem setSess_faulted_not_mem_of_sessionPath {x : Sess} {as : List Action} (h : sessionPath x as = true) :
    Action.setSess .faulted ∉ as := by
  induction as generalizing x with
  | nil => simp
  | cons a as ih =>
    rw [sessionPath_cons, Bool.and_eq_true] at h
    rintro (_ | ⟨_, hm⟩)
    · simp [Action.sess?, not_sessStepAllowed_faulted] at h
    · exact ih h.2 hm

theorem sessAfter_of_sessionPath {x : Sess} {as : List Action} (h : sessionPath x as = true) :
    sessAfter x as = .ready := by
  induction as generalizing x with
  | nil => simpa [sessionPath] using h
  | cons a as ih =>
    rw [sessionPath_cons, Bool.and_eq_true] at h
    rw [sessAfter_cons, ih h.2]

end Sys2Proof.Machine
end

section
/-! PROOFS. The invariant of the block, taken apart: what every state keeps, and the three situations of a block
(10_state.md R18, R20): an operation in progress, a wait for a request, a recorded fault. Every move of a step keeps
it. -/

namespace Sys2Proof.Machine

/-! ### The invariant in parts -/

/-- The clauses of the invariant that do not speak of the operation in progress. -/
structure State.Lasting (s : State) : Prop where
  configAdmitted : configRefusal s.cfg = none
  bufferWhole : s.fb.wf
  clockFixed : s.clockRate = s.cfg.sclkHz
  rstPresence : s.lvlRst.isSome = s.cfg.hasRst
  csPresence : s.lvlCs.isSome = s.cfg.hasCs
  automaticOp : s.fromHost = false → s.curOp = autoInitOp
  automaticResp : s.fromHost = false → s.resp = .none
  traceAllowed : ∀ e ∈ s.trace, eventAllowed s.cfg e = true

/-- An operation is in progress. -/
structure State.Running (s : State) : Prop where
  busy : s.busy = true
  notFaulted : s.sess ≠ .faulted
  noFault : s.faultCode = .none
  noInfo : s.faultInfo = 0
  path : sessionPath s.sess s.seq = true
  framed : framedFrom s.cfg (busConfigured s.trace && !s.pending.isWrite) s.csAsserted s.lvlCd s.seq = true
  pendingWrite : ∀ bs, s.pending = .write bs →
    busConfigured s.trace = true ∧ writeAllowed s.cfg s.csAsserted s.lvlCd bs = true
  pendingDelay : ∀ ms, s.pending = .delay ms → ms = s.cfg.resetHoldMs ∧ s.csAsserted = false
  waits : ∀ ms, Action.wait ms ∈ s.seq → ms = s.cfg.resetHoldMs
  lines : ∀ a ∈ s.seq, ∀ l, a.line? = some l → hasLine s.cfg l = true
  hostResp : s.fromHost = true → s.resp ≠ .none

/-- The block is idle and ready, with nothing left to do. -/
structure State.Resting (s : State) : Prop where
  idle : s.busy = false
  ready : s.sess = .ready
  noFault : s.faultCode = .none
  noInfo : s.faultInfo = 0
  empty : s.seq = []
  nonePending : s.pending = .none
  deasserted : s.csAsserted = false

/-- A fault is recorded, and the block has nothing left to do. -/
structure State.Stopped (s : State) : Prop where
  idle : s.busy = false
  faulted : s.sess = .faulted
  recorded : s.faultCode ≠ .none
  empty : s.seq = []
  nonePending : s.pending = .none

variable {s t : State}

theorem State.Inv.lasting (h : s.Inv) : s.Lasting := { h with }

theorem State.Inv.noFault (h : s.Inv) (hn : s.sess ≠ .faulted) : s.faultCode = .none := by
  by_contra hc
  exact hn (h.faultedIffRecorded.mpr hc)

theorem State.Inv.running (h : s.Inv) (hb : s.busy = true) : s.Running :=
  have hn := h.busyNotFaulted hb
  { busy := hb
    notFaulted := hn
    noFault := h.noFault hn
    noInfo := h.infoOnlyOfFault (h.noFault hn)
    path := h.sessionOnPath hb
    framed := h.framed hb
    pendingWrite := h.pendingWrite
    pendingDelay := h.pendingDelay
    waits := h.waitsAreResetHold
    lines := h.linesPresent
    hostResp := h.hostResp hb }

theorem State.Inv.resting (h : s.Inv) (hb : s.busy = false) (hs : s.sess = .ready) : s.Resting :=
  have hf : s.faultCode = .none := h.noFault (by simp [hs])
  { idle := hb
    ready := hs
    noFault := hf
    noInfo := h.infoOnlyOfFault hf
    empty := (h.idleEmpty hb).1
    nonePending := (h.idleEmpty hb).2
    deasserted := h.idleDeasserted hb hs }

theorem State.Inv.stopped (h : s.Inv) (hs : s.sess = .faulted) : s.Stopped :=
  have hb : s.busy = false := by
    cases hb : s.busy with
    | false => rfl
    | true => exact absurd hs (h.busyNotFaulted hb)
  { idle := hb
    faulted := hs
    recorded := h.faultedIffRecorded.mp hs
    empty := (h.idleEmpty hb).1
    nonePending := (h.idleEmpty hb).2 }

theorem State.Running.inv (hl : s.Lasting) (h : s.Running) : s.Inv :=
  { hl, h with
    faultedIffRecorded := by simp [h.notFaulted, h.noFault]
    infoOnlyOfFault := fun _ => h.noInfo
    idleEmpty := by simp [h.busy]
    idleSettled := by simp [h.busy]
    idleDeasserted := by simp [h.busy]
    busyNotFaulted := fun _ => h.notFaulted
    sessionOnPath := fun _ => h.path
    framed := fun _ => h.framed
    waitsAreResetHold := h.waits
    linesPresent := h.lines
    hostResp := fun _ => h.hostResp }

theorem State.Resting.inv (hl : s.Lasting) (h : s.Resting) : s.Inv :=
  { hl with
    faultedIffRecorded := by simp [h.ready, h.noFault]
    infoOnlyOfFault := fun _ => h.noInfo
    idleEmpty := fun _ => ⟨h.empty, h.nonePending⟩
    idleSettled := fun _ => .inl h.ready
    idleDeasserted := fun _ _ => h.deasserted
    busyNotFaulted := by simp [h.idle]
    sessionOnPath := by simp [h.idle]
    framed := by simp [h.idle]
    pendingWrite := by simp [h.nonePending]
    pendingDelay := by simp [h.nonePending]
    waitsAreResetHold := by simp [h.empty]
    linesPresent := by simp [h.empty]
    hostResp := by simp [h.idle] }

theorem State.Stopped.inv (hl : s.Lasting) (h : s.Stopped) : s.Inv :=
  { hl with
    faultedIffRecorded := by simp [h.faulted, h.recorded]
    infoOnlyOfFault := fun hc => absurd hc h.recorded
    idleEmpty := fun _ => ⟨h.empty, h.nonePending⟩
    idleSettled := fun _ => .inr h.faulted
    idleDeasserted := by simp [h.faulted]
    busyNotFaulted := by simp [h.idle]
    sessionOnPath := by simp [h.idle]
    framed := by simp [h.idle]
    pendingWrite := by simp [h.nonePending]
    pendingDelay := by simp [h.nonePending]
    waitsAreResetHold := by simp [h.empty]
    linesPresent := by simp [h.empty]
    hostResp := by simp [h.idle] }

/-- The inputs are no part of the invariant. -/
theorem State.Inv.withRstN (h : s.Inv) (later : List Level) : ({ s with rstN := later } : State).Inv := { h with }

/-! ### What lasts -/

theorem State.Lasting.emit (h : s.Lasting) {e : Event} (he : eventAllowed s.cfg e = true) : (s.emit e).Lasting :=
  { h with
    traceAllowed := fun e' he' => by
      rcases List.mem_append.mp he' with hm | hm
      · exact h.traceAllowed e' hm
      · exact List.mem_singleton.mp hm ▸ he }

theorem State.Lasting.driveLine (h : s.Lasting) {l : Line} (hl : hasLine s.cfg l = true) (v : Level) :
    (s.driveLine l v).Lasting := by
  cases l with
  | rst => exact { h with rstPresence := hl.symm }
  | cs => exact { h with csPresence := hl.symm }
  | cd => exact { h with }

theorem State.Lasting.doAction (h : s.Lasting) {a : Action} (hd : doAction a s = .next t) : t.Lasting := by
  obtain ⟨l, v, -, hl, rfl⟩ | ⟨l, v, -, hl, rfl⟩ | ⟨-, rfl⟩ | ⟨bs, -, rfl⟩ | ⟨ms, -, rfl⟩ | ⟨x, -, rfl⟩ :=
    doAction_next hd
  · exact (h.driveLine hl v).emit (by simpa [eventAllowed] using hl)
  · exact (h.driveLine hl v).emit (by simpa [eventAllowed] using hl)
  · exact h.emit (by simp [eventAllowed, h.clockFixed])
  · exact { h with }
  · exact { h with }
  · exact { h with }

/-- Taking a fault stops the block and keeps what lasts (60_exceptions.md R93). -/
theorem State.Lasting.raiseFault_inv (h : s.Lasting) {code : FaultCode} (hc : code ≠ .none) (w : Word) :
    (s.raiseFault code w).Inv := by
  rw [raiseFault_eq_withFault]
  exact State.Stopped.inv { h with } ⟨rfl, rfl, hc, rfl, rfl⟩

theorem State.Lasting.accepted (h : s.Lasting) (w : Word) (later : List Word) : (s.accepted w later).Lasting :=
  { h with
    automaticOp := nofun
    automaticResp := nofun }

/-- The admitted reset hold is long enough to be emitted (70_reset_and_hazards.md R113). -/
theorem resetHold_allowed {c : Config} (h : configRefusal c = none) : eventAllowed c (.delay c.resetHoldMs) = true := by
  unfold configRefusal at h
  split at h
  · cases h
  split at h
  · cases h
  · simpa [eventAllowed] using ‹¬ c.resetHoldMs < 100›

/-- A write that may be made may be emitted (30_encoding.md R59, R62). -/
theorem eventAllowed_of_writeAllowed {c : Config} {asserted : Bool} {cd : PinLevel} {bs : List Byte}
    (h : writeAllowed c asserted cd bs = true) :
    eventAllowed c (.write bs) = true ∧ eventAllowed c (.writeFault bs) = true := by
  simp only [writeAllowed, Bool.and_eq_true, Bool.or_eq_true, decide_eq_true_eq] at h
  obtain ⟨-, ⟨-, hone⟩ | ⟨-, hlen⟩⟩ := h
  · simp [eventAllowed, hone]
  · simp [eventAllowed, hlen]

/-! ### The bus and chip-select after a move -/

@[simp] theorem busConfigured_append (tr : List Event) (e : Event) :
    busConfigured (tr ++ [e]) = configuredAfter (busConfigured tr) e := by
  simp [busConfigured]

theorem csAsserted_driveLine (l : Line) (v : Level) :
    (s.driveLine l v).csAsserted = if l = .cs then v == s.cfg.csAssert else s.csAsserted := by
  cases l with
  | cs => simp [State.csAsserted, beq_eq_decide]
  | rst | cd => rfl

theorem framedFrom_lineConfig {c : Config} {k asserted : Bool} {cd : PinLevel} {l : Line} {v : Level}
    {rest : List Action} (h : framedFrom c k asserted cd (.lineConfig l v :: rest) = true) :
    framedFrom c k (if l = .cs then v == c.csAssert else asserted) (if l = .cd then .driven v else cd) rest = true := by
  cases l <;> simp only [framedFrom, Bool.and_eq_true] at h <;> simpa using h.2

theorem framedFrom_lineSet {c : Config} {k asserted : Bool} {cd : PinLevel} {l : Line} {v : Level}
    {rest : List Action} (h : framedFrom c k asserted cd (.lineSet l v :: rest) = true) :
    framedFrom c k (if l = .cs then v == c.csAssert else asserted) (if l = .cd then .driven v else cd) rest = true := by
  cases l <;> simp only [framedFrom, Bool.and_eq_true] at h <;> simpa using h.2

/-! ### An operation in progress -/

/-- A line action leaves the rest of the operation whole. -/
theorem State.Running.driveLine (h : s.Running) {rest : List Action} {l : Line} {v : Level} {e : Event}
    (hpath : sessionPath s.sess rest = true)
    (hframed : framedFrom s.cfg (busConfigured s.trace) (if l = .cs then v == s.cfg.csAssert else s.csAsserted)
      (if l = .cd then .driven v else s.lvlCd) rest = true)
    (hsub : ∀ a ∈ rest, a ∈ s.seq) (hp : s.pending = .none) (he : ∀ k, configuredAfter k e = k) :
    ((({ s with seq := rest } : State).driveLine l v).emit e).Running :=
  have hcs : ((({ s with seq := rest } : State).driveLine l v).emit e).csAsserted
      = if l = .cs then v == s.cfg.csAssert else s.csAsserted := csAsserted_driveLine l v
  { busy := by simpa using h.busy
    notFaulted := by simpa using h.notFaulted
    noFault := by simpa using h.noFault
    noInfo := by simpa using h.noInfo
    path := by simpa using hpath
    framed := by
      rw [hcs]
      simpa [he, hp, Pending.isWrite] using hframed
    pendingWrite := by simp [hp]
    pendingDelay := by simp [hp]
    waits := fun ms hms => by simpa using h.waits ms (hsub _ (by simpa using hms))
    lines := fun a ha l hl => by simpa using h.lines a (hsub a (by simpa using ha)) l hl
    hostResp := by simpa using h.hostResp }

theorem State.Running.doAction (h : s.Running) {a : Action} {rest : List Action} (hp : s.pending = .none)
    (hq : s.seq = a :: rest) (hd : doAction a { s with seq := rest } = .next t) : t.Running := by
  have hsub : ∀ b ∈ rest, b ∈ s.seq := fun b hb => by simp [hq, hb]
  have hwaits : ∀ ms, Action.wait ms ∈ rest → ms = s.cfg.resetHoldMs := fun ms hm => h.waits ms (hsub _ hm)
  have hlines : ∀ b ∈ rest, ∀ l, b.line? = some l → hasLine s.cfg l = true := fun b hb => h.lines b (hsub b hb)
  have hpath : sessionPath s.sess (a :: rest) = true := hq ▸ h.path
  have hframed : framedFrom s.cfg (busConfigured s.trace) s.csAsserted s.lvlCd (a :: rest) = true := by
    simpa [hp, Pending.isWrite, hq] using h.framed
  obtain ⟨l, v, rfl, -, rfl⟩ | ⟨l, v, rfl, -, rfl⟩ | ⟨rfl, rfl⟩ | ⟨bs, rfl, rfl⟩ | ⟨ms, rfl, rfl⟩ | ⟨x, rfl, rfl⟩ :=
    doAction_next hd
  · exact h.driveLine hpath (framedFrom_lineConfig hframed) hsub hp fun _ => rfl
  · exact h.driveLine hpath (framedFrom_lineSet hframed) hsub hp fun _ => rfl
  · simp only [framedFrom, Bool.and_eq_true] at hframed
    exact { h with
      path := hpath
      framed := by simpa [State.csAsserted, configuredAfter, hp, Pending.isWrite] using hframed.2
      pendingWrite := by simp [hp]
      waits := hwaits
      lines := hlines }
  · simp only [framedFrom, Bool.and_eq_true] at hframed
    obtain ⟨⟨hk, hallowed⟩, hrest⟩ := hframed
    exact { h with
      path := hpath
      framed := by simpa [State.csAsserted, Pending.isWrite] using hrest
      pendingWrite := fun bs' hbs => by
        obtain rfl : bs = bs' := Pending.write.inj hbs
        exact ⟨hk, hallowed⟩
      pendingDelay := nofun
      waits := hwaits
      lines := hlines }
  · simp only [framedFrom, Bool.and_eq_true, Bool.not_eq_true'] at hframed
    exact { h with
      path := hpath
      framed := by simpa [State.csAsserted, Pending.isWrite] using hframed.2
      pendingWrite := nofun
      pendingDelay := fun ms' hms => by
        obtain rfl : ms = ms' := Pending.delay.inj hms
        exact ⟨h.waits ms (by simp [hq]), hframed.1⟩
      waits := hwaits
      lines := hlines }
  · simp only [framedFrom, Bool.and_eq_true] at hframed
    simp only [sessionPath, Bool.and_eq_true] at hpath
    exact { h with
      notFaulted := by
        rintro rfl
        simp [not_sessStepAllowed_faulted] at hpath
      path := hpath.2
      framed := by simpa [State.csAsserted, hp, Pending.isWrite] using hframed.2
      waits := hwaits
      lines := hlines }

theorem State.Running.transport (hl : s.Lasting) (h : s.Running) {bs : List Byte} (hp : s.pending = .write bs)
    (ht : transportStep bs s = .next t) : t.Inv := by
  obtain ⟨-, hallowed⟩ := h.pendingWrite bs hp
  obtain ⟨hev, hevFault⟩ := eventAllowed_of_writeAllowed hallowed
  obtain ⟨later, -, rfl⟩ | ⟨later, -, rfl⟩ | ⟨-, -, rfl⟩ := transportStep_next ht
  · have hframed : framedFrom s.cfg false s.csAsserted s.lvlCd s.seq = true := by
      simpa [hp, Pending.isWrite] using h.framed
    exact State.Running.inv { hl.emit hev with } { h with
      framed := by
        show framedFrom s.cfg (busConfigured (s.trace ++ [.write bs]) && true) s.csAsserted s.lvlCd s.seq = true
        rwa [busConfigured_append]
      pendingWrite := nofun
      pendingDelay := nofun }
  · have hlast : ({ s.emit (.writeFault bs) with answers := later } : State).Lasting := { hl.emit hevFault with }
    exact hlast.raiseFault_inv (by simp) _
  · exact h.inv hl

theorem State.Running.timer (hl : s.Lasting) (h : s.Running) {ms : Nat} (hp : s.pending = .delay ms) :
    ({ s.emit (.delay ms) with pending := .none } : State).Inv := by
  obtain ⟨rfl, -⟩ := h.pendingDelay ms hp
  have hframed : framedFrom s.cfg (busConfigured s.trace) s.csAsserted s.lvlCd s.seq = true := by
    simpa [hp, Pending.isWrite] using h.framed
  exact State.Running.inv { hl.emit (resetHold_allowed hl.configAdmitted) with } { h with
    framed := by
      show framedFrom s.cfg (busConfigured (s.trace ++ [.delay _]) && true) s.csAsserted s.lvlCd s.seq = true
      rwa [busConfigured_append, Bool.and_true]
    pendingWrite := nofun
    pendingDelay := nofun }

/-- An operation with nothing left has ended in READY with chip-select deasserted (10_state.md R27). -/
theorem State.Running.complete (hl : s.Lasting) (h : s.Running) (hp : s.pending = .none) (hq : s.seq = []) :
    s.complete.Inv := by
  have hready : s.sess = .ready := by simpa [hq, sessionPath] using h.path
  have hcs : s.csAsserted = false := by simpa [hq, framedFrom] using h.framed
  rw [complete_eq]
  exact State.Resting.inv { hl with } ⟨rfl, hready, h.noFault, h.noInfo, hq, hp, hcs⟩

/-! ### Accepting a word (R26) -/

/-- The meaning of an accepted operation loads whole transactions, or takes the fault. -/
theorem State.Resting.accept (hl : s.Lasting) (h : s.Resting) {i : Instr} {w : Word} (later : List Word)
    (hm : HostMove i w (s.accepted w later) t) : t.Inv := by
  have loaded {m : Memory} (hwf : m.wf) {as : List Action} {r : Resp} (hr : r ≠ .none) (hw : WholeOperation s.cfg as) :
      (State.load as r { s.accepted w later with fb := m }).Inv :=
    State.Running.inv { hl.accepted w later with bufferWhole := hwf, automaticResp := nofun } {
      busy := rfl
      notFaulted := by simp [h.ready]
      noFault := h.noFault
      noInfo := h.noInfo
      path := by simpa [h.ready] using hw.path
      framed := by
        have hcs : (State.load as r { s.accepted w later with fb := m }).csAsserted = false := h.deasserted
        rw [hcs]
        exact hw.framed _ _
      pendingWrite := by simp [h.nonePending]
      pendingDelay := by simp [h.nonePending]
      waits := hw.waits
      lines := hw.lines
      hostResp := fun _ => hr }
  cases hm with
  | load as r hr hwhole => exact loaded hl.bufferWhole hr (hwhole hl.bufferWhole)
  | store off d hi => exact loaded (Memory.put_wf hl.bufferWhole _ _) (by simp) (wholeOperation_nil _)
  | illegal hres => exact (hl.accepted w later).raiseFault_inv (by simp) w
  | range hr => exact (hl.accepted w later).raiseFault_inv (by simp) w

/-! ### The block's reset (70_reset_and_hazards.md R106, R107) -/

/-- A line is configured once when the configuration has it, chip-select as deasserted, and otherwise not at all. -/
theorem lineConfigOf_cases (c : Config) (l : Line) :
    lineConfigOf c l = [] ∨
      ∃ v, lineConfigOf c l = [.lineConfig l v] ∧ hasLine c l = true ∧ (l = .cs → v = c.csDeassert) := by
  cases l with
  | cd => exact .inr ⟨c.cdInitLevel, rfl, rfl, nofun⟩
  | rst =>
    cases h : c.hasRst with
    | false => exact .inl (by simp [lineConfigOf, h])
    | true => exact .inr ⟨.high, by simp [lineConfigOf, h], h, nofun⟩
  | cs =>
    cases h : c.hasCs with
    | false => exact .inl (by simp [lineConfigOf, h])
    | true => exact .inr ⟨c.csDeassert, by simp [lineConfigOf, h], h, fun _ => rfl⟩

/-- Line configurations of present lines leave chip-select deasserted, so whole transactions may follow them. -/
theorem wholeOperation_lineConfigs {c : Config} {as : List Action} (h : WholeOperation c as) :
    ∀ ls : List Line, WholeOperation c (ls.flatMap (lineConfigOf c) ++ as) := by
  intro ls
  induction ls with
  | nil => exact h
  | cons l ls ih =>
    obtain ⟨hpath, hframed, hwaits, hlines⟩ := ih
    rw [List.flatMap_cons, List.append_assoc]
    rcases lineConfigOf_cases c l with hnone | ⟨v, hone, hpresent, hlevel⟩
    · rw [hnone, List.nil_append]
      exact ⟨hpath, hframed, hwaits, hlines⟩
    rw [hone, List.singleton_append]
    refine ⟨hpath, fun k cd => ?_, fun ms hms => ?_, fun a ha l' hl' => ?_⟩
    · cases l with
      | rst | cd => simp [framedFrom, hframed]
      | cs => simp [framedFrom, hframed, hlevel rfl, Config.csDeassert, Config.csAssert]
    · exact hwaits ms ((List.mem_cons.mp hms).resolve_left nofun)
    · rcases List.mem_cons.mp ha with rfl | hm
      · obtain rfl : l = l' := Option.some.inj hl'
        exact hpresent
      · exact hlines a hm l' hl'

theorem wholeOperation_construction (c : Config) (o : LineOrder) : WholeOperation c (construction c o) :=
  wholeOperation_lineConfigs (wholeOperation_init c) _

/-- The initialization begins by setting UNINIT, from READY as from UNINIT (10_state.md R20, 42_session.md R82). -/
theorem sessionPath_construction (c : Config) (o : LineOrder) : sessionPath .uninit (construction c o) = true := by
  have skip (x : Sess) (as : List Action) (ls : List Line) :
      sessionPath x (ls.flatMap (lineConfigOf c) ++ as) = sessionPath x as := by
    induction ls with
    | nil => rfl
    | cons l ls ih =>
      rw [List.flatMap_cons, List.append_assoc]
      rcases lineConfigOf_cases c l with hnone | ⟨v, hone, -, -⟩
      · rw [hnone, List.nil_append, ih]
      · rw [hone, List.singleton_append, sessionPath, ih]
  rw [construction, skip]
  exact (wholeOperation_init c).path

/-- The block's reset leaves the automatic initialization in progress, and keeps the trace. -/
theorem State.Lasting.resetBlock_inv (h : s.Lasting) : s.resetBlock.Inv :=
  have hwhole : WholeOperation s.cfg s.resetBlock.seq := wholeOperation_construction _ _
  have hcs : s.resetBlock.csAsserted = false := by
    cases hc : s.cfg.hasCs <;> simp [State.csAsserted, unconfiguredIf, hc]
  State.Running.inv
    { h with
      bufferWhole := Memory.ofFn_wf _
      clockFixed := rfl
      rstPresence := by cases hr : s.cfg.hasRst <;> simp [unconfiguredIf, hr]
      csPresence := by cases hc : s.cfg.hasCs <;> simp [unconfiguredIf, hc]
      automaticOp := fun _ => rfl
      automaticResp := fun _ => rfl }
    { busy := rfl
      notFaulted := nofun
      noFault := rfl
      noInfo := rfl
      path := sessionPath_construction _ _
      framed := by
        rw [hcs]
        exact hwhole.framed _ _
      pendingWrite := nofun
      pendingDelay := nofun
      waits := hwhole.waits
      lines := hwhole.lines
      hostResp := nofun }

/-! ### Every step keeps the invariant -/

theorem BlockMove.keeps_inv (hi : s.Inv) (h : BlockMove s t) : t.Inv := by
  have hl := hi.lasting
  cases h with
  | quiet => exact hi
  | accept w later i t hs hb hw hd hm he =>
    exact (hi.resting hb hs).accept hl later (exec_hostMove_of_next (decodeHost_encodes hd).1 he)
  | reject w later r hs hb hw hd => exact (hl.accepted w later).raiseFault_inv (by cases r <;> simp [rejectFault]) w
  | complete hb hp hq => exact (hi.running hb).complete hl hp hq
  | action a rest t hb hn hp hq hd =>
    have hrest : ({ s with seq := rest } : State).Lasting := { hl with }
    exact ((hi.running hb).doAction hp hq hd).inv (hrest.doAction hd)
  | transport bs t hb hn hp ht => exact (hi.running hb).transport hl hp ht
  | timer ms hb hp => exact (hi.running hb).timer hl hp

theorem step_keeps_inv (hi : s.Inv) (h : step s = .next t) : t.Inv := by
  obtain ⟨-, ⟨later, -, rfl⟩ | ⟨-, hm⟩⟩ := step_next h
  · exact (hi.withRstN later).lasting.resetBlock_inv
  · exact hm.keeps_inv (hi.withRstN _)

end Sys2Proof.Machine
end

section
/-! PROOFS. Runs of an operation whose writes are all answered (10_state.md R22 to R25): the state that a list of
actions leaves, computed from the list, and the run that leads there. -/

namespace Sys2Proof.Machine

/-! ### What a list of actions leaves -/

/-- The level an action drives a line to, if it drives that line. -/
def Action.drives? (l : Line) : Action → Option Level
  | .lineConfig l' v | .lineSet l' v => if l' = l then some v else none
  | .busConfig | .busWrite _ | .wait _ | .setSess _ => none

/-- A line's level register after a list of actions, from `x`; `f` is the form the register holds a level in. -/
def levelAfter {α : Type} (f : Level → α) (l : Line) (x : α) (as : List Action) : α :=
  ((as.filterMap (Action.drives? l)).map f).getLastD x

/-- The state in which `done` has run with every write completed, `rest` is left of `seq`, and `more` of the answers. -/
def State.ran (done rest : List Action) (more : List TransportAnswer) (s : State) : State :=
  { s with
    seq := rest
    answers := more
    trace := s.trace ++ eventsOf s.cfg done
    sess := sessAfter s.sess done
    lvlRst := levelAfter (fun v => some (.driven v)) .rst s.lvlRst done
    lvlCs := levelAfter (fun v => some (.driven v)) .cs s.lvlCs done
    lvlCd := levelAfter .driven .cd s.lvlCd done }

@[simp] theorem levelAfter_nil {α : Type} (f : Level → α) (l : Line) (x : α) : levelAfter f l x [] = x := rfl

theorem levelAfter_cons {α : Type} (f : Level → α) (l : Line) (x : α) (a : Action) (as : List Action) :
    levelAfter f l x (a :: as) = levelAfter f l (((a.drives? l).map f).getD x) as := by
  unfold levelAfter
  cases h : a.drives? l with
  | none => rw [List.filterMap_cons_none h]; rfl
  | some v => rw [List.filterMap_cons_some h, List.map_cons, List.getLastD_cons]; rfl

variable {s : State} {rest : List Action} {more : List TransportAnswer}

theorem State.ran_nil : s.ran [] s.seq s.answers = s := by simp [State.ran]

/-- A list of actions runs one action after another. -/
theorem State.ran_cons (a : Action) (as mid : List Action) (between : List TransportAnswer) :
    (s.ran [a] mid between).ran as rest more = s.ran (a :: as) rest more := by
  simp [State.ran, sessAfter_cons, levelAfter_cons]

theorem sessAfter_ne_faulted {x : Sess} {as : List Action} (hx : x ≠ .faulted) (h : Action.setSess .faulted ∉ as) :
    sessAfter x as ≠ .faulted := by
  induction as generalizing x with
  | nil => exact hx
  | cons a as ih =>
    rw [sessAfter_cons]
    refine ih ?_ fun hm => h (List.mem_cons_of_mem _ hm)
    cases a with
    | setSess y =>
      rintro rfl
      exact h List.mem_cons_self
    | lineConfig | lineSet | busConfig | busWrite | wait => exact hx

theorem State.Working.ran (hw : s.Working) {done : List Action} (h : Action.setSess .faulted ∉ done) :
    (s.ran done rest more).Working :=
  { hw with notFaulted := sessAfter_ne_faulted hw.notFaulted h }

/-! ### The run -/

/-- What one action leaves. -/
theorem State.ran_one (a : Action) :
    s.ran [a] rest more = { s with
      seq := rest
      answers := more
      trace := s.trace ++ a.events s.cfg
      sess := a.sess?.getD s.sess
      lvlRst := ((a.drives? .rst).map fun v => some (.driven v)).getD s.lvlRst
      lvlCs := ((a.drives? .cs).map fun v => some (.driven v)).getD s.lvlCs
      lvlCd := ((a.drives? .cd).map .driven).getD s.lvlCd } := by
  simp [State.ran, sessAfter_cons, levelAfter_cons]

theorem State.LeadsTo.of_step {t : State} (h : Machine.step s = .next t) : s.LeadsTo t := .step h (.refl t)

/-- The step after the start of a write is the transport's. -/
theorem State.Working.step_inFlight (hw : s.Working) (rest : List Action) (bs : List Byte) :
    Machine.step { s with seq := rest, pending := .write bs }
      = transportStep bs { s with seq := rest, pending := .write bs } :=
  step_transport (s := { s with seq := rest, pending := .write bs }) hw.configAdmitted hw.released hw.busy hw.notFaulted
    rfl

/-- A write that is begun and answered. -/
theorem State.Working.leadsTo_answered (hw : s.Working) {bs : List Byte} (hq : s.seq = .busWrite bs :: rest)
    (ha : s.answers = .ok :: more) :
    s.LeadsTo { s with seq := rest, answers := more, trace := s.trace ++ [.write bs], pending := .none } := by
  refine .step (step_working hw hq) (.of_step (s := { s with seq := rest, pending := .write bs }) ?_)
  rw [hw.step_inFlight]
  exact transportStep_ok ha

/-- A write that is begun and fails (R24, 60_exceptions.md R93). -/
theorem State.Working.leadsTo_writeFault (hw : s.Working) {bs : List Byte} (hq : s.seq = .busWrite bs :: rest)
    (ha : s.answers = .fail :: more) :
    s.LeadsTo (State.withFault .transportFault s.curOp
      { s with trace := s.trace ++ [.writeFault bs], answers := more }) := by
  refine .step (step_working hw hq) (.of_step (s := { s with seq := rest, pending := .write bs }) ?_)
  rw [hw.step_inFlight]
  exact transportStep_fail ha

/-- A delay that is begun and ends. -/
theorem State.Working.leadsTo_delayed (hw : s.Working) {ms : Nat} (hq : s.seq = .wait ms :: rest) :
    s.LeadsTo { s with seq := rest, trace := s.trace ++ [.delay ms], pending := .none } := by
  refine .step (step_working hw hq) (.of_step ?_)
  exact step_timer (s := { s with seq := rest, pending := .delay ms }) hw.configAdmitted hw.released hw.busy
    hw.notFaulted rfl

/-- One action and the end of what it put in flight. -/
theorem State.Working.leadsTo_ran_one (hw : s.Working) (hclock : s.clockRate = s.cfg.sclkHz) {a : Action}
    (hq : s.seq = a :: rest) (hline : ∀ l, a.line? = some l → hasLine s.cfg l = true)
    (ha : s.answers = List.replicate (writesOf [a]).length .ok ++ more) : s.LeadsTo (s.ran [a] rest more) := by
  have hstep : step s = doAction a { s with seq := rest } := step_working hw hq
  rw [State.ran_one]
  cases a with
  | lineConfig l v =>
    obtain rfl : s.answers = more := ha
    have hdriven := hstep.trans (lineAction_present (hline l rfl))
    cases l <;> exact .of_step hdriven
  | lineSet l v =>
    obtain rfl : s.answers = more := ha
    have hdriven := hstep.trans (lineAction_present (hline l rfl))
    cases l <;> exact .of_step hdriven
  | busConfig =>
    obtain rfl : s.answers = more := ha
    rw [Action.events, ← hclock]
    exact .of_step hstep
  | busWrite bs =>
    have hrun := hw.leadsTo_answered hq ha
    rw [← hw.nonePending] at hrun
    exact hrun
  | wait ms =>
    obtain rfl : s.answers = more := ha
    have hrun := hw.leadsTo_delayed hq
    rw [← hw.nonePending] at hrun
    exact hrun
  | setSess x =>
    obtain rfl : s.answers = more := ha
    rw [Action.events, List.append_nil]
    exact .of_step hstep

/-- A working block runs a list of actions on present lines whose writes are all answered (70_reset_and_hazards.md
R119). -/
theorem State.Working.leadsTo_ran (hw : s.Working) (hclock : s.clockRate = s.cfg.sclkHz) {done : List Action}
    (hq : s.seq = done ++ rest) (hlines : ∀ a ∈ done, ∀ l, a.line? = some l → hasLine s.cfg l = true)
    (hnf : Action.setSess .faulted ∉ done)
    (ha : s.answers = List.replicate (writesOf done).length .ok ++ more) : s.LeadsTo (s.ran done rest more) := by
  induction done generalizing s with
  | nil =>
    obtain rfl : s.seq = rest := hq
    obtain rfl : s.answers = more := ha
    rw [State.ran_nil]
    exact .refl s
  | cons a as ih =>
    have hfirst := hw.leadsTo_ran_one (more := List.replicate (writesOf as).length .ok ++ more) hclock hq
      (hlines a List.mem_cons_self) (by
        rw [ha, ← List.singleton_append, writesOf_append, List.length_append, List.replicate_add, List.append_assoc])
    rw [← State.ran_cons a as (as ++ rest) (List.replicate (writesOf as).length .ok ++ more)]
    refine hfirst.trans (ih (hw.ran fun hm => hnf ?_) hclock rfl ?_ ?_ rfl)
    · exact List.mem_singleton.mp hm ▸ List.mem_cons_self
    · exact fun b hb => hlines b (List.mem_cons_of_mem _ hb)
    · exact fun hm => hnf (List.mem_cons_of_mem _ hm)

/-- The state of a completed operation (10_state.md R27): `as` has run and the response is returned. -/
theorem State.Working.leadsTo_complete (hw : s.Working) (hclock : s.clockRate = s.cfg.sclkHz)
    (hlines : ∀ a ∈ s.seq, ∀ l, a.line? = some l → hasLine s.cfg l = true) (hnf : Action.setSess .faulted ∉ s.seq)
    (ha : s.answers = List.replicate (writesOf s.seq).length .ok ++ more) :
    s.LeadsTo (s.ran s.seq [] more).complete :=
  (hw.leadsTo_ran hclock (List.append_nil _).symm hlines hnf ha).trans
    (.step (step_completes (hw.ran hnf) rfl) (.refl _))

end Sys2Proof.Machine
end

section
/-! PROOFS. What each move of a step leaves unchanged, what `STATUS` shows (10_state.md R19), the reset values (R106),
and the bytes of the operand rules as numbers (30_encoding.md R56, R59). -/

namespace Sys2Proof.Machine

variable {s t : State}

/-! ### Frames of the moves -/

/-- An action touches neither direction of the host port (R22). -/
theorem doAction_keeps_hostPort {a : Action} (h : doAction a s = .next t) :
    t.hostWords = s.hostWords ∧ t.responses = s.responses := by
  obtain ⟨l, v, -, -, rfl⟩ | ⟨l, v, -, -, rfl⟩ | ⟨-, rfl⟩ | ⟨bs, -, rfl⟩ | ⟨ms, -, rfl⟩ | ⟨x, -, rfl⟩ := doAction_next h
    <;> simp

/-- Only the action that sets the session state changes it. -/
theorem doAction_sess {a : Action} (h : doAction a s = .next t) : t.sess = a.sess?.getD s.sess := by
  obtain ⟨l, v, rfl, -, rfl⟩ | ⟨l, v, rfl, -, rfl⟩ | ⟨rfl, rfl⟩ | ⟨bs, rfl, rfl⟩ | ⟨ms, rfl, rfl⟩ | ⟨x, rfl, rfl⟩ :=
    doAction_next h <;> simp [Action.sess?]

theorem transportStep_keeps_hostWords {bs : List Byte} (h : transportStep bs s = .next t) :
    t.hostWords = s.hostWords := by
  obtain ⟨later, -, rfl⟩ | ⟨later, -, rfl⟩ | ⟨-, -, rfl⟩ := transportStep_next h <;> simp

theorem ExecMove.keeps_hostWords (h : ExecMove s t) : t.hostWords = s.hostWords := by cases h <;> simp

/-- A move takes a word from the host only from an idle READY block (R26), and then the first word. -/
theorem BlockMove.hostWords_cases (h : BlockMove s t) :
    t.hostWords = s.hostWords ∨ (s.sess = .ready ∧ s.busy = false ∧ ∃ w, s.hostWords = w :: t.hostWords) := by
  cases h with
  | quiet | timer => exact .inl rfl
  | complete => exact .inl (State.complete_hostWords s)
  | accept w later i t hs hb hw hd hm he =>
    exact .inr ⟨hs, hb, w, by rw [hm.keeps_hostWords, hw, State.accepted_hostWords]⟩
  | reject w later r hs hb hw hd => exact .inr ⟨hs, hb, w, by simp [hw]⟩
  | action a rest t hb hn hp hq hd => exact .inl (doAction_keeps_hostPort hd).1
  | transport bs t hb hn hp ht => exact .inl (transportStep_keeps_hostWords ht)

/-- A fault of a host operation answers the host at once (60_exceptions.md R93). -/
theorem ExecMove.responses_cases (h : ExecMove s t) :
    t.responses = s.responses ∨ (t.sess = .faulted ∧ t.responses = s.responses ++ [.fault t.faultCode]) := by
  cases h with
  | load | store | send => exact .inl rfl
  | fault code w => cases hf : s.fromHost <;> simp [hf]

theorem transportStep_responses_cases {bs : List Byte} (h : transportStep bs s = .next t) :
    t.responses = s.responses ∨ (t.sess = .faulted ∧ t.responses = s.responses ++ [.fault t.faultCode]) := by
  obtain ⟨later, -, rfl⟩ | ⟨later, -, rfl⟩ | ⟨-, -, rfl⟩ := transportStep_next h
  · exact .inl rfl
  · cases hf : s.fromHost <;> simp [hf]
  · exact .inl rfl

/-- Where the session state comes from: it stays, a fault sets it, or the head of `seq` does (10_state.md R20). -/
theorem BlockMove.sess_cases (h : BlockMove s t) :
    t.sess = s.sess ∨ t.sess = .faulted ∨ (s.busy = true ∧ ∃ rest, s.seq = .setSess t.sess :: rest) := by
  cases h with
  | quiet | timer => exact .inl rfl
  | complete => exact .inl (State.complete_sess s)
  | accept w later i t hs hb hw hd hm he =>
    cases hm with
    | load | store | send => exact .inl rfl
    | fault => exact .inr (.inl (State.raiseFault_sess ..))
  | reject => exact .inr (.inl (State.raiseFault_sess ..))
  | action a rest t hb hn hp hq hd =>
    have hsess := doAction_sess hd
    cases a with
    | setSess x => exact .inr (.inr ⟨hb, rest, hsess ▸ hq⟩)
    | lineConfig | lineSet | busConfig | busWrite | wait => exact .inl hsess
  | transport bs t hb hn hp ht =>
    obtain ⟨later, -, rfl⟩ | ⟨later, -, rfl⟩ | ⟨-, -, rfl⟩ := transportStep_next ht
    · exact .inl rfl
    · exact .inr (.inl (State.raiseFault_sess ..))
    · exact .inl rfl

/-- An accepted word that leaves the session READY has loaded actions and a response, and changed nothing
besides the request's registers but the buffer (R26). -/
theorem acceptWord_ready {w : Word} {later : List Word} (h : acceptWord w later s = .next t)
    (hready : t.sess = .ready) : ∃ fb as r, t = { s.withRequest w later with fb := fb, seq := as, resp := r } := by
  cases hd : decodeHost w with
  | ok i =>
    rw [acceptWord_ok hd] at h
    cases exec_hostMove_of_next (decodeHost_encodes hd).1 h with
    | load as r => exact ⟨_, as, r, rfl⟩
    | store off d => exact ⟨_, [], .ack, rfl⟩
    | illegal | range => simp at hready
  | error r =>
    rw [acceptWord_error hd] at h
    rw [← Host.Outcome.next.inj h] at hready
    simp at hready

/-- With chip-select, a write is made with the line asserted (41_framer.md R72). -/
theorem asserted_of_writeAllowed {c : Config} {asserted : Bool} {cd : PinLevel} {bs : List Byte}
    (h : writeAllowed c asserted cd bs = true) (hcs : c.hasCs = true) : asserted = true := by
  rw [writeAllowed, Bool.and_eq_true] at h
  simpa [hcs] using h.1

/-! ### `STATUS` (R19) -/

/-- The byte of R19 for the three registers `STATUS` shows. -/
def statusOf (code : FaultCode) (busy : Bool) (x : Sess) : Byte :=
  BitVec.ofNat 8 (16 * code.code.toNat + 4 * (if busy then 1 else 0) + x.code.toNat)

theorem status_eq (s : State) : s.status = statusOf s.faultCode s.busy s.sess := by
  unfold State.status statusOf
  cases s.faultCode <;> cases s.busy <;> cases s.sess <;> rfl

theorem statusOf_highBits (code : FaultCode) (busy : Bool) (x : Sess) :
    (statusOf code busy x).getLsbD 3 = false ∧ (statusOf code busy x).toNat / 16 ≤ 4 := by
  cases code <;> cases busy <;> cases x <;> decide

theorem sess_eq_faulted_of_status {s : State} (h : s.status &&& 0x03 = 0x03) : s.sess = .faulted := by
  rw [status_eq] at h
  revert h
  cases s.faultCode <;> cases s.busy <;> cases s.sess <;> decide

theorem status_eq_ready_iff (s : State) :
    s.status = 0x02 ↔ s.faultCode = .none ∧ s.busy = false ∧ s.sess = .ready := by
  rw [status_eq]
  cases s.faultCode <;> cases s.busy <;> cases s.sess <;> decide

theorem State.Stopped.status (h : s.Stopped) :
    (s.faultCode = .transportFault ∧ s.status = 0x13) ∨ (s.faultCode = .illegalOp ∧ s.status = 0x23) ∨
      (s.faultCode = .reservedBits ∧ s.status = 0x33) ∨ (s.faultCode = .fbRange ∧ s.status = 0x43) := by
  have hstatus := status_eq s
  have hrecorded := h.recorded
  rw [h.idle, h.faulted] at hstatus
  cases hc : s.faultCode with
  | none => exact absurd hc hrecorded
  | transportFault => exact .inl ⟨rfl, by rw [hstatus, hc]; rfl⟩
  | illegalOp => exact .inr (.inl ⟨rfl, by rw [hstatus, hc]; rfl⟩)
  | reservedBits => exact .inr (.inr (.inl ⟨rfl, by rw [hstatus, hc]; rfl⟩))
  | fbRange => exact .inr (.inr (.inr ⟨rfl, by rw [hstatus, hc]; rfl⟩))

/-! ### The reset values (70_reset_and_hazards.md R106) -/

theorem atReset_constructed (c : Config) (o : LineOrder) (f : Nat → Byte) :
    (State.constructed c o (Memory.ofFn f)).AtReset where
  buffer := Memory.ofFn_wf f
  uninit := rfl
  busy := rfl
  noFault := rfl
  noInfo := rfl
  autoOp := rfl
  automatic := rfl
  construction := ⟨o, rfl⟩
  nonePending := rfl
  noResp := rfl
  rst := rfl
  cs := rfl
  cd := rfl
  clock := rfl
  status := by rw [status_eq]; rfl

theorem atReset_reset : State.reset.AtReset :=
  { atReset_constructed Config.block (Config.resetLineOrder 0) (Config.resetByte 0) with }

theorem atReset_resetBlock (s : State) : s.resetBlock.AtReset :=
  { atReset_constructed s.cfg (Config.resetLineOrder (s.resets + 1)) (Config.resetByte (s.resets + 1)) with }

/-! ### Operand bytes as numbers -/

theorem inverseByte_ite (f : BitVec 1) : inverseByte f = if f = 1 then 0xA7 else 0xA6 := by
  revert f
  decide

theorem contrastByte_toNat (v : BitVec 16) : contrastByte v = BitVec.ofNat 8 (v.toNat / 4 % 64) := by
  apply BitVec.eq_of_toNat_eq
  rw [contrastByte_eq, BitVec.toNat_setWidth_of_le (by omega), BitVec.extractLsb'_toNat, Nat.shiftRight_eq_div_pow,
    BitVec.toNat_ofNat]
  omega

theorem pageByte_toNat (p : Byte) : pageByte p = BitVec.ofNat 8 (0xB0 + p.toNat % 16) := by
  revert p
  decide +kernel

theorem columnLowByte_toNat (c : Byte) : columnLowByte c = BitVec.ofNat 8 (c.toNat % 16) := by
  revert c
  decide +kernel

theorem columnHighByte_toNat (c : Byte) : columnHighByte c = BitVec.ofNat 8 (0x10 + c.toNat / 16) := by
  revert c
  decide +kernel

theorem sixBits_eq_ofNat (c6 : BitVec 6) : c6.setWidth 8 = BitVec.ofNat 8 c6.toNat := BitVec.ofNat_toNat 8 c6 ▸ rfl

theorem lowNibble_eq (low : BitVec 4) : 0x00#8 ||| low.setWidth 8 = BitVec.ofNat 8 low.toNat := by
  rw [BitVec.zero_or, BitVec.ofNat_toNat]

/-- A nibble under a clear low nibble adds to it (30_encoding.md R59). -/
theorem nibble_or_eq_add (high low : BitVec 4) :
    ((high.setWidth 8 <<< 4) ||| low.setWidth 8 : Byte) = BitVec.ofNat 8 (high.toNat * 16 + low.toNat) := by
  revert high low
  decide +kernel

end Sys2Proof.Machine
end

section
/-! PROOFS. The statements of the family 10_state.md, settled. -/

namespace Sys2Proof.Machine

/-- Settles O46: each move of the block keeps the invariant, situation by situation, and so does its reset. -/
theorem stepKeepsInvariant : Obligations.StepKeepsInvariant := fun _ _ hi h => step_keeps_inv hi h

/-- Settles O8: only an idle READY block takes a word, and what it takes is loaded or faulted. -/
theorem hostPortAcceptsOnlyWhenIdleAndReady : Obligations.HostPortAcceptsOnlyWhenIdleAndReady := by
  refine ⟨fun s t h hnot => ?_, fun s w later hw hwords => ?_⟩
  · obtain ⟨-, ⟨later, -, rfl⟩ | ⟨-, hm⟩⟩ := step_next h
    · rfl
    · rcases hm.hostWords_cases with hkept | ⟨hready, hidle, -⟩
      · exact hkept
      · rcases hnot with hbusy | hnotReady
        · cases hbusy.symm.trans hidle
        · exact absurd hready hnotReady
  · rw [step_accepts hw hwords]
    cases hd : decodeHost w with
    | ok i =>
      obtain ⟨t, he, hm⟩ := exec_hostMove (decodeHost_encodes hd).1 (s.accepted w later)
      refine ⟨t, (acceptWord_ok hd later s).trans he, ?_⟩
      cases hm with
      | load as r hr hwhole => exact ⟨rfl, rfl, rfl, rfl, .inl ⟨rfl, hw.ready, hr, i, decode_host_ok.mpr hd⟩⟩
      | store off d hi => exact ⟨rfl, rfl, rfl, rfl, .inl ⟨rfl, hw.ready, nofun, i, decode_host_ok.mpr hd⟩⟩
      | illegal | range => simp
    | error r => exact ⟨_, acceptWord_error hd later s, by simp⟩

/-- Settles O9: the head action runs when nothing is pending; otherwise the step is the transport's or the timer's. -/
theorem sequencerExecutesTheHeadAction : Obligations.SequencerExecutesTheHeadAction := by
  refine ⟨fun s a rest hw hq => step_working hw hq, fun s t h hr hb hp => ?_⟩
  obtain ⟨-, ⟨later, hlow, -⟩ | ⟨-, hm⟩⟩ := step_next h
  · simp [hlow] at hr
  cases hm with
  | quiet | timer => exact .inl rfl
  | accept w later i t hs hidle => cases hb.symm.trans hidle
  | reject w later r hs hidle => cases hb.symm.trans hidle
  | complete hb' hnone => exact absurd hnone hp
  | action a rest t hb' hn hnone => exact absurd hnone hp
  | transport bs t hb' hn hp' ht =>
    obtain ⟨more, -, rfl⟩ | ⟨more, -, rfl⟩ | ⟨-, -, rfl⟩ := transportStep_next ht
    · exact .inl rfl
    · exact .inr ⟨State.raiseFault_sess .., State.raiseFault_seq ..⟩
    · exact .inl rfl

/-- Settles O11: the step is the transport's, whose answer decides it; a stall is a step to the same state. -/
theorem transportHasThreeOutcomes : Obligations.TransportHasThreeOutcomes := by
  intro s bs more hc hr hb hn hp
  have hstep : step s = transportStep bs s := step_transport hc hr hb hn hp
  refine ⟨fun ha => hstep.trans (transportStep_ok ha), fun ha => hstep.trans (transportStep_fail ha), fun ha => ?_⟩
  exact runSteps_of_fixed (hstep.trans (transportStep_stall ha))

/-- Settles O13: completion returns the response loaded, and no other move but a fault returns one. -/
theorem responseComesLast : Obligations.ResponseComesLast := by
  refine ⟨fun s hw hq => ?_, fun s t h => ?_⟩
  · have hstep : step s = .next s.complete := step_completes hw hq
    rw [complete_eq] at hstep
    refine ⟨fun hf => ?_, fun hf hresp => ?_, fun b hf hresp => ?_⟩
    · rwa [if_neg (by simp [hf])] at hstep
    · have hack : s.resp.response = .ack := by rcases hresp with hresp | hresp <;> rw [hresp] <;> rfl
      rwa [if_pos hf, hack] at hstep
    · have hdata : s.resp.response = .data b := by rw [hresp]; rfl
      rwa [if_pos hf, hdata] at hstep
  · obtain ⟨-, ⟨later, -, rfl⟩ | ⟨-, hm⟩⟩ := step_next h
    · exact .inl rfl
    cases hm with
    | quiet | timer => exact .inl rfl
    | accept w later i t hs hb hw hd hm he => exact hm.responses_cases.imp_right .inr
    | reject => exact .inr (.inr (by simp))
    | complete hb hp hq =>
      cases hf : s.fromHost with
      | false => exact .inl (by simp)
      | true => exact .inr (.inl ⟨hb, hq, hp, rfl, by simp, s.resp.response, by simp⟩)
    | action a rest t hb hn hp hq hd => exact .inl (doAction_keeps_hostPort hd).2
    | transport bs t hb hn hp ht => exact (transportStep_responses_cases ht).imp_right .inr

/-- Settles O15: of the moves from a state that meets the invariant, only a fault of decode and a failed write leave
FAULTED behind; a whole buffer rules out FB_RANGE in a meaning, a whole session path an action that sets FAULTED. -/
theorem faultEntryIsExact : Obligations.FaultEntryIsExact := by
  intro s t hi h hn hf
  obtain ⟨-, ⟨later, -, rfl⟩ | ⟨-, hm⟩⟩ := step_next h
  · cases hf
  have hi' := hi.withRstN s.rstN.tail
  cases hm with
  | quiet | timer => exact absurd hf hn
  | accept w later i t hs hb hw hd hm he =>
    obtain ⟨hencodes, hwell⟩ := decodeHost_encodes hd
    cases exec_hostMove_of_next hencodes he with
    | load | store => exact absurd hf hn
    | illegal hres => exact .inl ⟨w, later, .illegalOp, hs, hb, hw, .inl ⟨rfl, hres⟩, raiseFault_eq_withFault ..⟩
    | range hr => exact absurd hi.bufferWhole (hr hwell)
  | reject w later r hs hb hw hd =>
    refine .inl ⟨w, later, rejectFault r, hs, hb, hw, .inr ?_, raiseFault_eq_withFault ..⟩
    cases r with
    | reservedBits => exact .inl ⟨rfl, decode_host_error.mpr hd⟩
    | fbRange => exact .inr ⟨rfl, decode_host_error.mpr hd⟩
  | complete => exact absurd ((State.complete_sess _).symm.trans hf) hn
  | action a rest t hb hn' hp hq hd => exact absurd hf ((hi'.running hb).doAction hp hq hd).notFaulted
  | transport bs t hb hn' hp ht =>
    obtain ⟨more, -, rfl⟩ | ⟨more, ha, rfl⟩ | ⟨-, -, rfl⟩ := transportStep_next ht
    · exact absurd hf hn
    · refine .inr ⟨bs, more, hp, ha, raiseFault_eq_withFault .., fun hcs => ?_⟩
      have hasserted : s.csAsserted = true := asserted_of_writeAllowed (hi.pendingWrite bs hp).2 hcs
      rw [State.raiseFault_lvlCs]
      exact of_decide_eq_true hasserted
    · exact absurd hf hn

/-- Settles O17: STATUS shows the registers that decide whether a word is taken. -/
theorem statusTellsTheHost : Obligations.StatusTellsTheHost := by
  intro s t hi h
  have hmoves := step_next h
  refine ⟨fun hne => ?_, fun w later hstatus hw hr => ?_, fun hstatus => ?_, fun hf => (hi.stopped hf).status⟩
  · obtain ⟨-, ⟨later, -, rfl⟩ | ⟨-, hm⟩⟩ := hmoves
    · exact absurd rfl hne
    · rcases hm.hostWords_cases with hkept | ⟨hready, hidle, -⟩
      · exact absurd hkept hne
      · exact (status_eq_ready_iff s).mpr ⟨(hi.resting hidle hready).noFault, hidle, hready⟩
  · obtain ⟨-, hidle, hready⟩ := (status_eq_ready_iff s).mp hstatus
    rw [step_notReset hmoves.1 hr, blockStep_accepts (s := { s with rstN := s.rstN.tail }) hready hidle hw] at h
    cases hd : decodeHost w with
    | ok i =>
      rw [acceptWord_ok hd] at h
      exact (exec_next h).keeps_hostWords
    | error r =>
      rw [acceptWord_error hd] at h
      rw [← Host.Outcome.next.inj h]
      simp
  · have hf : s.sess = .faulted := sess_eq_faulted_of_status hstatus
    obtain ⟨hc, ⟨later, hlow, rfl⟩ | ⟨hr, -⟩⟩ := hmoves
    · exact ⟨rfl, fun hr => absurd (by simp [hlow]) hr⟩
    · rw [step_notReset hc hr, blockStep_faulted (s := { s with rstN := s.rstN.tail }) hf] at h
      rw [← Host.Outcome.next.inj h]
      exact ⟨rfl, fun _ => rfl⟩

/-- Settles O38: the bytes of the table are the command's encoding, and the meaning of a wire command sends those. -/
theorem wireCommandsBecomeTheWriteInFlight : Obligations.WireCommandsBecomeTheWriteInFlight := by
  intro f c6 p4 clo chi s i bs h
  refine exec_wire ?_ s
  have hflag : 0xA6#8 ||| f.setWidth 8 = if f = 1 then 0xA7 else 0xA6 := inverseByte_ite f
  have hpage : 0xB0#8 ||| p4.setWidth 8 = BitVec.ofNat 8 (0xB0 + p4.toNat) := nibble_or_eq_add 0xB p4
  have hlow : 0x00#8 ||| clo.setWidth 8 = BitVec.ofNat 8 clo.toNat := lowNibble_eq clo
  have hhigh : 0x10#8 ||| chi.setWidth 8 = BitVec.ofNat 8 (0x10 + chi.toNat) := nibble_or_eq_add 0x1 chi
  simp only [List.mem_cons, Prod.mk.injEq, List.not_mem_nil, or_false] at h
  rcases h with ⟨rfl, rfl⟩ | ⟨rfl, rfl⟩ | ⟨rfl, rfl⟩ | ⟨rfl, rfl⟩ | ⟨rfl, rfl⟩ | ⟨rfl, rfl⟩ | ⟨rfl, rfl⟩ | ⟨rfl, rfl⟩ |
    ⟨rfl, rfl⟩ | ⟨rfl, rfl⟩ | ⟨rfl, rfl⟩ | ⟨rfl, rfl⟩ | ⟨rfl, rfl⟩ | ⟨rfl, rfl⟩ | ⟨rfl, rfl⟩ | ⟨rfl, rfl⟩
  all_goals simp only [encode, hflag, hpage, hlow, hhigh, sixBits_eq_ofNat]


/-- Settles O39: a host operation loads, stores or faults, a wire command starts its write; each frame is read off. -/
theorem meaningsLeaveTheRestUnchanged : Obligations.MeaningsLeaveTheRestUnchanged := by
  intro i s t he
  cases hcode : encode i with
  | wire bs =>
    obtain rfl : { s with pending := .write bs } = t := Host.Outcome.next.inj ((exec_wire hcode s).symm.trans he)
    simp
  | host w =>
    cases exec_hostMove_of_next hcode he with
    | load as r hr hwhole => simp
    | store off d hi =>
      refine ⟨by simp, fun a ha => ?_, by simp, by simp, nofun⟩
      exact Memory.read_put_other s.fb (ha off d hi) d
    | illegal | range => simp

/-- Settles O40: both words decode whatever the operand, and the meaning masks it. -/
theorem operandValuesNeverFault : Obligations.OperandValuesNeverFault := by
  intro s later hw
  refine ⟨fun v hwords => ?_, fun p c hwords => ?_⟩
  · rw [contrastWord_eq] at hwords
    have hstep := (step_accepts hw hwords).trans (acceptWord_ok (decodeHost_setContrast v) later s)
    refine ⟨_, hstep, rfl, hw.ready, rfl, ?_⟩
    rw [State.load_seq, writesOf_frameCmd, contrastByte_toNat]
  · rw [cursorWord_eq] at hwords
    have hstep := (step_accepts hw hwords).trans (acceptWord_ok (decodeHost_setCursor p c) later s)
    refine ⟨_, hstep, rfl, hw.ready, rfl, ?_⟩
    rw [State.load_seq, writesOf_cursor, pageByte_toNat, columnLowByte_toNat, columnHighByte_toNat]

/-- Settles O48: the session state stays, a fault sets it, or the head of a session path does. -/
theorem sessionChangesOnlyAsListed : Obligations.SessionChangesOnlyAsListed := by
  intro s t hi h
  obtain ⟨-, ⟨later, hlow, rfl⟩ | ⟨hr, hm⟩⟩ := step_next h
  · exact ⟨fun _ => rfl, fun hr => absurd (by simp [hlow]) hr⟩
  refine ⟨fun hlow => absurd hlow hr, fun _ => ?_⟩
  rcases hm.sess_cases with hkept | hfault | ⟨hb, rest, hq⟩
  · exact .inl hkept
  · rw [hfault]
    cases s.sess <;> simp
  · have hpath : sessionPath s.sess s.seq = true := hi.sessionOnPath hb
    rw [show s.seq = .setSess t.sess :: rest from hq, sessionPath, Bool.and_eq_true] at hpath
    revert hpath
    cases s.sess <;> cases t.sess <;> simp [sessStepAllowed]

/-- Settles O53: the remaining actions run one after another, and the operation completes. -/
theorem answeredOperationRunsToCompletion : Obligations.AnsweredOperationRunsToCompletion := by
  intro s more hw hclock hlines hnf ha
  have hrun := hw.leadsTo_complete hclock hlines hnf ha
  rw [complete_eq] at hrun
  exact ⟨_, hrun, rfl, rfl, rfl, rfl, hw.nonePending, rfl, rfl, hw.released, rfl, rfl, rfl, rfl, rfl, rfl, rfl, rfl,
    rfl⟩

/-- Settles O54: the actions before the failed write run, and the failure ends the operation. -/
theorem failedWriteEndsTheOperation : Obligations.FailedWriteEndsTheOperation := by
  intro s before after bs more hw hclock hq hlines hnf ha
  have hrun := hw.leadsTo_ran hclock hq hlines hnf ha
  have hfault := (hw.ran hnf).leadsTo_writeFault (s := s.ran before (.busWrite bs :: after) (.fail :: more)) rfl rfl
  exact ⟨_, hrun.trans hfault, rfl, rfl, rfl, rfl, rfl, rfl, rfl, rfl, rfl, rfl, rfl, rfl⟩

/-- Settles O58: the accepted operation is in progress on a session path, with what the invariant says of its
actions. -/
theorem hostOperationRunsToItsResponse : Obligations.HostOperationRunsToItsResponse := by
  intro s t w later more hi hw hwords h hready ha
  have ht : t.Inv := step_keeps_inv hi h
  obtain ⟨fb, as, r, rfl⟩ := acceptWord_ready ((step_accepts hw hwords).symm.trans h) hready
  have hpath : sessionPath s.sess as = true := ht.sessionOnPath rfl
  have hworking : State.Working { s.withRequest w later with fb := fb, seq := as, resp := r } :=
    ⟨hw.configAdmitted, ht.busyNotFaulted rfl, rfl, hw.nonePending, hw.released⟩
  have hrun := hworking.leadsTo_complete ht.clockFixed ht.linesPresent
    (setSess_faulted_not_mem_of_sessionPath hpath) ha
  rw [complete_eq] at hrun
  have hready' : sessAfter s.sess as = .ready := sessAfter_of_sessionPath hpath
  exact ⟨_, .step h hrun, ⟨hw.configAdmitted, hready', rfl, rfl, hw.nonePending, hw.released⟩, rfl, rfl, rfl, rfl, rfl,
    ht.noFault hworking.notFaulted, rfl⟩

/-- Settles O6: the step of a waiting block is the accepted word's; a write of one wire command is that command. -/
theorem stepRunsTheDecodedOperation : Obligations.StepRunsTheDecodedOperation := by
  refine ⟨fun s w later hw hwords => ?_, fun s bs rest i hw hq hd => ?_⟩
  · have hstep : step s = acceptWord w later s := step_accepts hw hwords
    refine ⟨fun i hd => ?_, fun hd => ?_, fun hd => ?_⟩
    · rw [hstep, acceptWord_ok (decode_host_ok.mp hd)]
      rfl
    · rw [hstep, acceptWord_error (decode_host_error.mp hd), raiseFault_eq_withFault]
      rfl
    · rw [hstep, acceptWord_error (decode_host_error.mp hd), raiseFault_eq_withFault]
      rfl
  · rw [step_working hw hq, exec_wire (decodeTransaction_encodes (decode_wire_ok.mp hd))]
    rfl

/-- Settles O10: the step is the head action's effect, and the invariant says that its line is present. -/
theorem actionsHaveExactlyTheirEffect : Obligations.ActionsHaveExactlyTheirEffect := by
  intro s rest hi hw
  have hline {a : Action} {l : Line} (hq : s.seq = a :: rest) (ha : a.line? = some l) : hasLine s.cfg l = true :=
    hi.linesPresent a (by simp [hq]) l ha
  have hconfig {l : Line} {v : Level} (hq : s.seq = .lineConfig l v :: rest) :
      step s = .next ((({ s with seq := rest } : State).driveLine l v).emit (.lineConfig l v)) :=
    (step_working hw hq).trans (lineAction_present (hline hq rfl))
  have hset {l : Line} {v : Level} (hq : s.seq = .lineSet l v :: rest) :
      step s = .next ((({ s with seq := rest } : State).driveLine l v).emit (.lineSet l v)) :=
    (step_working hw hq).trans (lineAction_present (hline hq rfl))
  refine ⟨fun v hq => ⟨hline hq rfl, hconfig hq⟩, fun v hq => ⟨hline hq rfl, hconfig hq⟩, fun v hq => hconfig hq,
    fun v hq => ⟨hline hq rfl, hset hq⟩, fun v hq => ⟨hline hq rfl, hset hq⟩, fun v hq => hset hq, fun hq => ?_,
    fun bs hq => step_working hw hq, fun ms hq => step_working hw hq, fun x hq => step_working hw hq⟩
  rw [← hi.clockFixed]
  exact step_working hw hq

/-- Settles O12: the step is the timer's. -/
theorem delayTimerCompletes : Obligations.DelayTimerCompletes :=
  fun _ _ hc hr hb hn hp => step_timer hc hr hb hn hp

/-- Settles O14: a faulted block's step changes nothing, and only a low sample of rst_n ends that. -/
theorem faultedIsQuiescent : Obligations.FaultedIsQuiescent := by
  refine ⟨fun s t hf h => ?_, fun s k hc hf hr => ?_⟩
  · obtain ⟨hc, ⟨later, hlow, rfl⟩ | ⟨hr, -⟩⟩ := step_next h
    · exact ⟨fun hr => absurd (by simp [hlow]) hr, fun _ => rfl⟩
    · rw [step_notReset hc hr, blockStep_faulted (s := { s with rstN := s.rstN.tail }) hf] at h
      exact ⟨fun _ => (Host.Outcome.next.inj h).symm, fun hlow => absurd hlow hr⟩
  · exact runSteps_of_fixed ((step_released hc hr).trans (blockStep_faulted hf)) k

/-- Settles O16: the byte is that of the three registers it shows, of which there are finitely many values. -/
theorem statusLayout : Obligations.StatusLayout := by
  refine ⟨status_eq, fun s => ?_, ⟨rfl, rfl, rfl, rfl⟩, ⟨rfl, rfl, rfl, rfl, rfl⟩, atReset_reset.status, fun _ => rfl⟩
  rw [status_eq]
  exact statusOf_highBits ..

/-- Settles O51: at reset and after a low sample the state is the constructed one, ports and inputs apart. -/
theorem resetGivesTheResetValues : Obligations.ResetGivesTheResetValues :=
  ⟨atReset_reset, fun _ _ hc hr => ⟨_, step_reset hc hr, atReset_resetBlock _, rfl, rfl⟩⟩

end Sys2Proof.Machine
end

section
/-! PROOFS. The pixel buffer: its pages (20_memory.md R38), its pixels (R35, R36, R37) and what replacing one bit of one
byte does to them (40_buffer_access.md R69). -/

namespace Sys2Proof.Machine

variable {m : Memory}

/-! ### Writing where there is no byte -/

theorem Memory.put_of_read_none {a : Nat} (h : m.read a = none) (d : Byte) : m.put a d = m := by
  have hnot : a ∉ m.map Prod.fst := by
    rw [← Memory.read_isSome_iff, h]
    simp
  refine (List.map_congr_left fun cell hcell => if_neg ?_).trans (List.map_id' m)
  rintro rfl
  exact hnot (List.mem_map_of_mem hcell)

/-! ### Pages -/

theorem Memory.slice_all (h : m.wf) : m.slice 0 fbSize = m.map Prod.snd := by
  rw [Memory.slice, List.drop_zero, List.take_of_length_le (Memory.wf_length h).le]

theorem Memory.flatMap_slice (m : Memory) (n k : Nat) :
    (List.range k).flatMap (fun p => m.slice (p * n) n) = m.slice 0 (k * n) := by
  induction k with
  | zero => simp [Memory.slice]
  | succ k ih =>
    have hjoin := Memory.slice_append m 0 (k * n) n
    rw [Nat.zero_add] at hjoin
    rw [List.range_succ, List.flatMap_append, ih, List.flatMap_singleton, hjoin, Nat.succ_mul]

/-- Page `p` of the buffer (20_memory.md R38). -/
def Memory.page (m : Memory) (p : Nat) : List Byte := m.slice (p * 128) 128

theorem Memory.page_bytes (h : m.wf) {p : Nat} (hp : p < 8) :
    (m.page p).length = 128 ∧ ∀ k < 128, (m.page p)[k]? = m.read (p * 128 + k) := by
  have hfit : p * 128 + 128 ≤ fbSize := by
    rw [show fbSize = 1024 from rfl]
    omega
  exact ⟨Memory.slice_length h hfit, fun k hk => Memory.slice_getElem? h hk hfit⟩

theorem Memory.flatMap_page (h : m.wf) : (List.range 8).flatMap m.page = m.map Prod.snd :=
  (Memory.flatMap_slice m 128 8).trans (Memory.slice_all h)

/-! ### Bits of a byte (R36, R37, R69) -/

theorem byteBit_eq_ofBool (b : Byte) (k : Nat) : byteBit b k = BitVec.ofBool (b.getLsbD k) := by
  refine BitVec.eq_of_getLsbD_eq fun i hi => ?_
  obtain rfl : i = 0 := by omega
  simp [byteBit]

theorem byteBit_eq_ofNat (b : Byte) (k : Nat) : byteBit b k = BitVec.ofNat 1 (b.toNat / 2 ^ k) := by
  apply BitVec.eq_of_toNat_eq
  rw [byteBit, BitVec.toNat_setWidth, BitVec.toNat_ushiftRight, Nat.shiftRight_eq_div_pow, BitVec.toNat_ofNat]

theorem byteWithBit_getLsbD (b : Byte) (k : Nat) (v : BitVec 1) {j : Nat} (hj : j < 8) :
    (byteWithBit b k v).getLsbD j = if j = k then v.getLsbD 0 else b.getLsbD j := by
  have hones : (0xFF#8).getLsbD j = true := by
    have : ∀ i : Fin 8, (0xFF#8).getLsbD i = true := by decide
    exact this ⟨j, hj⟩
  rw [byteWithBit, BitVec.getLsbD_or, BitVec.getLsbD_and, hones, Bool.and_true, BitVec.getLsbD_and]
  rcases lt_trichotomy j k with hlt | rfl | hgt
  · simp [hj, hlt, hlt.ne]
  · simp [hj]
  · simp [hj, hgt.not_gt, hgt.ne', show j - k ≠ 0 by omega, BitVec.getLsbD_of_ge v (j - k) (by omega)]

/-- Replacing one bit of a byte leaves the others. -/
theorem byteBit_byteWithBit (b : Byte) (k : Nat) (v : BitVec 1) {j : Nat} (hj : j < 8) :
    byteBit (byteWithBit b k v) j = if j = k then v else byteBit b j := by
  rw [byteBit_eq_ofBool, byteWithBit_getLsbD b k v hj]
  split
  · refine BitVec.eq_of_getLsbD_eq fun i hi => ?_
    obtain rfl : i = 0 := by omega
    simp
  · rw [byteBit_eq_ofBool]

/-! ### The pixels (R37) -/

theorem pixOffset_eq (x y : Nat) : pixOffset x y = y / 8 * 128 + x := by
  rw [pixOffset, Nat.shiftRight_eq_div_pow]

theorem pixBit_eq (x y : Nat) : pixBit x y = y % 8 := Nat.and_two_pow_sub_one_eq_mod y 3

theorem pixBit_lt (x y : Nat) : pixBit x y < 8 := by
  rw [pixBit_eq]
  omega

theorem pixInRange_iff {x y : Nat} : pixInRange x y = true ↔ x < 128 ∧ y < 64 := by
  rw [pixInRange, Bool.and_eq_true, decide_eq_true_iff, decide_eq_true_iff]
  rfl

theorem pixOffset_lt {x y : Nat} (hx : x < 128) (hy : y < 64) : pixOffset x y < 1024 := by
  rw [pixOffset_eq]
  omega

/-- A pixel is the only one at its bit of its byte. -/
theorem pix_injective {x y x' y' : Nat} (hx : x < 128) (hx' : x' < 128) (hoff : pixOffset x y = pixOffset x' y')
    (hbit : pixBit x y = pixBit x' y') : x = x' ∧ y = y' := by
  rw [pixOffset_eq, pixOffset_eq] at hoff
  rw [pixBit_eq, pixBit_eq] at hbit
  omega

theorem Memory.pixel_of_inRange (m : Memory) {x y : Nat} (hx : x < 128) (hy : y < 64) :
    m.pixel x y = (m.read (pixOffset x y)).map fun b => byteBit b (pixBit x y) :=
  if_pos (pixInRange_iff.mpr ⟨hx, hy⟩)

theorem Memory.pixel_of_outside (m : Memory) {x y : Nat} (h : ¬ (x < 128 ∧ y < 64)) : m.pixel x y = none :=
  if_neg (mt pixInRange_iff.mp h)

/-- Every pixel of a whole buffer has its byte (R32). -/
theorem Memory.pixel_some (h : m.wf) {x y : Nat} (hx : x < 128) (hy : y < 64) :
    ∃ b, m.read (pixOffset x y) = some b ∧ m.pixel x y = some (byteBit b (pixBit x y)) := by
  obtain ⟨b, hb⟩ := Memory.read_some h (pixOffset_lt hx hy)
  exact ⟨b, hb, by rw [m.pixel_of_inRange hx hy, hb]; rfl⟩

/-- Storing a byte with one bit replaced sets that bit's pixel and keeps every other pixel (40_buffer_access.md R69). -/
theorem Memory.pixel_put_byteWithBit {x y : Nat} {b : Byte} (hx : x < 128) (hy : y < 64)
    (hb : m.read (pixOffset x y) = some b) (v : BitVec 1) :
    (m.put (pixOffset x y) (byteWithBit b (pixBit x y) v)).pixel x y = some v ∧
      ∀ x' y' : Nat, (x' ≠ x ∨ y' ≠ y) →
        (m.put (pixOffset x y) (byteWithBit b (pixBit x y) v)).pixel x' y' = m.pixel x' y' := by
  refine ⟨?_, fun x' y' hne => ?_⟩
  · rw [Memory.pixel_of_inRange _ hx hy, Memory.read_put_same hb, Option.map_some,
      byteBit_byteWithBit b _ v (pixBit_lt x y), if_pos rfl]
  by_cases hin : x' < 128 ∧ y' < 64
  · obtain ⟨hx', hy'⟩ := hin
    rw [Memory.pixel_of_inRange _ hx' hy', Memory.pixel_of_inRange _ hx' hy']
    by_cases hoff : pixOffset x' y' = pixOffset x y
    · have hbit : pixBit x' y' ≠ pixBit x y := fun hbit => by
        obtain ⟨rfl, rfl⟩ := pix_injective hx' hx hoff hbit
        simp at hne
      rw [hoff, Memory.read_put_same hb, hb, Option.map_some, Option.map_some,
        byteBit_byteWithBit b _ v (pixBit_lt x' y'), if_neg hbit]
    · rw [Memory.read_put_other m hoff]
  · rw [Memory.pixel_of_outside _ hin, Memory.pixel_of_outside _ hin]

end Sys2Proof.Machine
end

section
/-! PROOFS. What each move of a step does to the buffer (20_memory.md R32, R43) and to the device-side trace (R46), and
the runs of the two operations that access the buffer (40_buffer_access.md R66, R67). -/

namespace Sys2Proof.Machine

variable {s t : State}

/-! ### The buffer after a move -/

/-- The meaning of a host operation leaves the buffer, or it is a store that found its byte. -/
theorem exec_fb_cases {i : Instr} {w : Word} (hi : encode i = .host w) (h : exec i s = .next t) :
    t.fb = s.fb ∨ ∃ off d, i = .fbWrite off d ∧ s.fb.write off.toNat d = some t.fb := by
  cases exec_hostMove_of_next hi h with
  | load => exact .inl rfl
  | store off d hstore =>
    cases hr : s.fb.read off.toNat with
    | none => exact .inl (Memory.put_of_read_none hr d)
    | some b => exact .inr ⟨off, d, hstore, Memory.write_eq_some.mpr ⟨by simp [hr], rfl⟩⟩
  | illegal | range => exact .inl (State.raiseFault_fb ..)

theorem doAction_keeps_fb {a : Action} (h : doAction a s = .next t) : t.fb = s.fb := by
  obtain ⟨l, v, -, -, rfl⟩ | ⟨l, v, -, -, rfl⟩ | ⟨-, rfl⟩ | ⟨bs, -, rfl⟩ | ⟨ms, -, rfl⟩ | ⟨x, -, rfl⟩ := doAction_next h
    <;> simp

theorem transportStep_keeps_fb {bs : List Byte} (h : transportStep bs s = .next t) : t.fb = s.fb := by
  obtain ⟨later, -, rfl⟩ | ⟨later, -, rfl⟩ | ⟨-, -, rfl⟩ := transportStep_next h <;> simp

/-- A move leaves the buffer, or it accepts an `FB_WRITE` and stores its byte. -/
theorem BlockMove.fb_cases (h : BlockMove s t) :
    t.fb = s.fb ∨ ∃ w later off d, s.sess = .ready ∧ s.busy = false ∧ s.hostWords = w :: later ∧
      decodeHost w = .ok (.fbWrite off d) ∧ s.fb.write off.toNat d = some t.fb := by
  cases h with
  | quiet | timer => exact .inl rfl
  | complete => exact .inl (State.complete_fb s)
  | accept w later i t hs hb hw hd hm he =>
    refine (exec_fb_cases (decodeHost_encodes hd).1 he).imp_right ?_
    rintro ⟨off, d, rfl, hwrite⟩
    exact ⟨w, later, off, d, hs, hb, hw, hd, hwrite⟩
  | reject => exact .inl (State.raiseFault_fb ..)
  | action a rest t hb hn hp hq hd => exact .inl (doAction_keeps_fb (s := { s with seq := rest }) hd)
  | transport bs t hb hn hp ht => exact .inl (transportStep_keeps_fb ht)

theorem BlockMove.keeps_fb_wf (h : BlockMove s t) (hwf : s.fb.wf) : t.fb.wf := by
  rcases h.fb_cases with hkept | ⟨w, later, off, d, -, -, -, -, hwrite⟩
  · rwa [hkept]
  · exact Memory.write_wf hwf hwrite

/-! ### The trace after a move -/

theorem ExecMove.keeps_trace (h : ExecMove s t) : t.trace = s.trace := by cases h <;> simp

/-- An action emits its one event at once, or none (10_state.md R22). -/
theorem doAction_trace_cases {a : Action} (h : doAction a s = .next t) :
    t.trace = s.trace ∨ ∃ e, t.trace = s.trace ++ [e] := by
  obtain ⟨l, v, -, -, rfl⟩ | ⟨l, v, -, -, rfl⟩ | ⟨-, rfl⟩ | ⟨bs, -, rfl⟩ | ⟨ms, -, rfl⟩ | ⟨x, -, rfl⟩ := doAction_next h
  · exact .inr ⟨.lineConfig l v, by simp⟩
  · exact .inr ⟨.lineSet l v, by simp⟩
  · exact .inr ⟨_, rfl⟩
  · exact .inl rfl
  · exact .inl rfl
  · exact .inl rfl

/-- The transport's answer is an event, a stall is none (10_state.md R24). -/
theorem transportStep_trace_cases {bs : List Byte} (h : transportStep bs s = .next t) :
    t.trace = s.trace ∨ ∃ e, t.trace = s.trace ++ [e] := by
  obtain ⟨later, -, rfl⟩ | ⟨later, -, rfl⟩ | ⟨-, -, rfl⟩ := transportStep_next h
  · exact .inr ⟨_, rfl⟩
  · exact .inr ⟨.writeFault bs, by simp⟩
  · exact .inl rfl

/-- A move of a busy block appends at most one event, and a move of an idle block none. -/
theorem BlockMove.trace_cases (h : BlockMove s t) :
    t.trace = s.trace ∨ (s.busy = true ∧ ∃ e, t.trace = s.trace ++ [e]) := by
  cases h with
  | quiet => exact .inl rfl
  | complete => exact .inl (State.complete_trace s)
  | accept w later i t hs hb hw hd hm he => exact .inl hm.keeps_trace
  | reject => exact .inl (State.raiseFault_trace ..)
  | action a rest t hb hn hp hq hd => exact (doAction_trace_cases hd).imp_right fun he => ⟨hb, he⟩
  | transport bs t hb hn hp ht => exact (transportStep_trace_cases ht).imp_right fun he => ⟨hb, he⟩
  | timer ms hb hp => exact .inr ⟨hb, .delay ms, rfl⟩

/-! ### The words of `FB_WRITE` and `FB_READ` (30_encoding.md R53, R63) -/

/-- The operand bits of a word that has an offset and a byte, at the width of the word. -/
theorem overByte_setWidth (off : BitVec 16) (d : Byte) :
    (overByte off d).setWidth 32 = (off.setWidth 32 <<< 8) ||| d.setWidth 32 := by
  refine BitVec.eq_of_getLsbD_eq fun i hi => ?_
  by_cases h : i < 28
  · simp [overByte, h, hi]
  · simp [overByte, h, hi, BitVec.getLsbD_of_ge off (i - 8) (by omega), BitVec.getLsbD_of_ge d i (by omega)]

theorem fbWriteWord_eq (off : BitVec 16) (d : Byte) :
    BitVec.ofNat 32 (0x60000000 + off.toNat * 256 + d.toNat) = opWord 0x6 (overByte off d) := by
  apply BitVec.eq_of_toNat_eq
  rw [opWord_toNat, overByte_toNat, BitVec.toNat_ofNat, show (0x6 : BitVec 4).toNat = 6 from rfl]
  omega

theorem fbReadWord_eq (off : BitVec 16) :
    BitVec.ofNat 32 (0x70000000 + off.toNat * 256) = opWord 0x7 (overByte off 0) := by
  apply BitVec.eq_of_toNat_eq
  rw [opWord_toNat, overByte_toNat, BitVec.toNat_ofNat, show (0x7 : BitVec 4).toNat = 7 from rfl,
    show (0 : Byte).toNat = 0 from rfl]
  omega

theorem assemble_fbWr (off : BitVec 16) (d : Byte) :
    assemble (.fbWr off.toNat d.toNat) = some (opWord 0x6 (overByte off d)) := by
  have hcode : (0x60000000#32 : Word) = (0x6 : BitVec 4).setWidth 32 <<< 28 := by decide
  rw [assemble, if_pos (by omega), opWord, overByte_setWidth, hcode, BitVec.ofNat_toNat, BitVec.ofNat_toNat,
    BitVec.or_assoc]

theorem assemble_fbRd (off : BitVec 16) : assemble (.fbRd off.toNat) = some (opWord 0x7 (overByte off 0)) := by
  have hcode : (0x70000000#32 : Word) = (0x7 : BitVec 4).setWidth 32 <<< 28 := by decide
  rw [assemble, if_pos (by omega), opWord, overByte_setWidth, hcode, BitVec.ofNat_toNat]
  simp

theorem decodeHost_fbWrite {off : BitVec 16} (hoff : off.toNat < 1024) (d : Byte) :
    decodeHost (opWord 0x6 (overByte off d)) = .ok (.fbWrite off d) := by
  have hmask : opWord 0x6#4 (overByte off d) &&& 0x0F000000#32 = 0#32 :=
    opWord_and _ _ _ (by decide) (overByte_clear_write off d)
  have hwell : (Instr.fbWrite off d).wellFormed = true := decide_eq_true hoff
  simp [decodeHost, mustBeZero, hmask, selectOp, offsetField_opWord, dataField_opWord, hwell]

theorem decodeHost_fbRead {off : BitVec 16} (hoff : off.toNat < 1024) :
    decodeHost (opWord 0x7 (overByte off 0)) = .ok (.fbRead off) := by
  have hmask : opWord 0x7#4 (overByte off 0#8) &&& 0x0F0000FF#32 = 0#32 :=
    opWord_and _ _ _ (by decide) (overByte_clear_read off)
  have hwell : (Instr.fbRead off).wellFormed = true := decide_eq_true hoff
  simp [decodeHost, mustBeZero, hmask, selectOp, offsetField_opWord, hwell]

/-! ### The runs -/

theorem exec_fbWrite {off : BitVec 16} (hwf : s.fb.wf) (hoff : off.toNat < 1024) (d : Byte) :
    exec (.fbWrite off d) s = .next ({ s with fb := s.fb.put off.toNat d }.load [] .ack) := by
  simp [exec, execFbWrite, Memory.write_complete hwf hoff d]

theorem exec_fbRead {off : BitVec 16} {b : Byte} (hb : s.fb.read off.toNat = some b) :
    exec (.fbRead off) s = .next (s.load [] (.data b)) := by
  simp [exec, execFbRead, hb]

/-- The waiting block after a buffer access `w` that left the buffer `fb` and returned the response of `r`. -/
def State.served (w : Word) (later : List Word) (fb : Memory) (r : Resp) (s : State) : State :=
  { s with
    curOp := w
    fromHost := true
    resp := r
    hostWords := later
    fb := fb
    responses := s.responses ++ [r.response] }

/-- An operation that loads no action is accepted and completes (10_state.md R26, R27). -/
theorem State.Waiting.serves (hw : s.Waiting) {w : Word} {later : List Word} (hwords : s.hostWords = w :: later)
    {i : Instr} (hd : decodeHost w = .ok i) {fb : Memory} {r : Resp}
    (he : exec i (s.accepted w later) = .next (State.load [] r { s.accepted w later with fb := fb })) :
    s.LeadsTo (s.served w later fb r) ∧ (s.served w later fb r).Waiting := by
  refine ⟨?_, { hw with }⟩
  have hstep := ((step_accepts hw hwords).trans (acceptWord_ok hd later s)).trans he
  have hworking : (State.load [] r { s.accepted w later with fb := fb }).Working :=
    ⟨hw.configAdmitted, by simp [hw.ready], rfl, hw.nonePending, hw.released⟩
  refine .step hstep (.of_step ?_)
  rw [step_completes hworking rfl, complete_eq]
  simp only [State.served, State.load, State.accepted, if_true, hw.empty, hw.idle]

theorem State.Waiting.serves_fbWrite (hw : s.Waiting) (hwf : s.fb.wf) {off : BitVec 16} (hoff : off.toNat < 1024)
    {d : Byte} {w : Word} (hword : opWord 0x6 (overByte off d) = w) {later : List Word}
    (hwords : s.hostWords = w :: later) :
    s.LeadsTo (s.served w later (s.fb.put off.toNat d) .ack) ∧
      (s.served w later (s.fb.put off.toNat d) .ack).Waiting :=
  hw.serves hwords (hword ▸ decodeHost_fbWrite hoff d) (exec_fbWrite (s := s.accepted w later) hwf hoff d)

theorem State.Waiting.serves_fbRead (hw : s.Waiting) {off : BitVec 16} (hoff : off.toNat < 1024) {b : Byte}
    (hb : s.fb.read off.toNat = some b) {w : Word} (hword : opWord 0x7 (overByte off 0) = w) {later : List Word}
    (hwords : s.hostWords = w :: later) :
    s.LeadsTo (s.served w later s.fb (.data b)) ∧ (s.served w later s.fb (.data b)).Waiting :=
  hw.serves hwords (hword ▸ decodeHost_fbRead hoff) (exec_fbRead (s := s.accepted w later) hb)

end Sys2Proof.Machine
end

section
/-! PROOFS. The buffer transfer (43_transfer.md R86, R88): the model's transactions are the written-out ones, and what
`SEND_BUFFER` loads and emits. -/

namespace Sys2Proof.Machine

/-! ### Transactions written out (41_framer.md R71 to R74) -/

theorem frameCmd_eq_commandActions (c : Config) (bs : List Byte) : frameCmd c bs = commandActions c bs := frame_eq ..

theorem frameData_eq_dataActions (c : Config) (bs : List Byte) : frameData c bs = dataActions c bs := frame_eq ..

theorem eventsOf_transactionActions (c : Config) (cd : Level) (bs : List Byte) :
    eventsOf c (transactionActions c cd bs) = transactionEvents c cd bs := by
  unfold transactionActions transactionEvents
  split <;> rfl

/-! ### The pages (R86, R88) -/

/-- The actions of page `p` of a transfer of the bytes `bs`, written out (R88). -/
def pageTransactions (c : Config) (p : Nat) (bs : List Byte) : List Action :=
  commandActions c [BitVec.ofNat 8 (0xB0 + p)] ++ commandActions c [0x00] ++ commandActions c [0x10] ++ dataActions c bs

theorem eventsOf_pageTransactions (c : Config) (p : Nat) (bs : List Byte) :
    eventsOf c (pageTransactions c p bs) = pageEvents c p bs := by
  simp [pageTransactions, pageEvents, commandActions, dataActions, commandEvents, dataEvents,
    eventsOf_transactionActions]

theorem pageByte_ofNat {p : Nat} (hp : p < 8) : pageByte (BitVec.ofNat 8 p) = BitVec.ofNat 8 (0xB0 + p) := by
  rw [pageByte_toNat, BitVec.toNat_ofNat, Nat.mod_eq_of_lt (by omega), Nat.mod_eq_of_lt (by omega)]

theorem pageActions_eq (c : Config) (m : Memory) {p : Nat} (hp : p < 8) :
    pageActions c m.slice p = pageTransactions c p (m.page p) := by
  simp only [pageActions, cursor, pageByte_ofNat hp, frameCmd_eq_commandActions, frameData_eq_dataActions]
  rfl

theorem sendBufferActions_eq (c : Config) (m : Memory) :
    sendBufferActions c m.slice = (List.range 8).flatMap fun p => pageTransactions c p (m.page p) :=
  List.flatMap_congr fun _ hp => pageActions_eq c m (List.mem_range.mp hp)

theorem eventsOf_sendBufferActions (c : Config) (m : Memory) :
    eventsOf c (sendBufferActions c m.slice) = (List.range 8).flatMap fun p => pageEvents c p (m.page p) := by
  simp only [sendBufferActions_eq, eventsOf_flatMap, eventsOf_pageTransactions]

/-- A transfer makes 32 writes: three of the cursor and one of data for each page. -/
theorem writesOf_sendBufferActions_length (c : Config) (m : Memory) :
    (writesOf (sendBufferActions c m.slice)).length = 32 := by
  rw [sendBufferActions, writesOf_flatMap]
  simp only [writesOf_pageActions]
  rfl

theorem decodeHost_sendBuffer : decodeHost 0x50000000 = .ok .sendBuffer := by decide

theorem exec_sendBuffer (s : State) :
    exec .sendBuffer s = .next (s.load (sendBufferActions s.cfg s.fb.slice) .ack) := rfl

end Sys2Proof.Machine
end

section
/-! PROOFS. The statements of the family 20_memory.md, settled. -/

namespace Sys2Proof.Machine

/-- Settles O20: a move leaves the buffer or replaces a byte of it, and a reset draws all 1024 bytes. -/
theorem bufferStaysWhole : Obligations.BufferStaysWhole := by
  refine ⟨fun s t hwf h => ?_, Memory.ofFn_wf _, Memory.wf_length (Memory.ofFn_wf _)⟩
  have hwf' : t.fb.wf := by
    obtain ⟨-, ⟨later, -, rfl⟩ | ⟨-, hm⟩⟩ := step_next h
    · exact Memory.ofFn_wf _
    · exact hm.keeps_fb_wf hwf
  exact ⟨hwf', Memory.wf_length hwf'⟩

/-- Settles O21: of the moves out of reset, only the acceptance of an `FB_WRITE` stores, and it stores one byte. -/
theorem onlyFbWriteChangesTheBuffer : Obligations.OnlyFbWriteChangesTheBuffer := by
  intro s t h hr
  obtain ⟨-, ⟨later, hlow, -⟩ | ⟨-, hm⟩⟩ := step_next h
  · simp [hlow] at hr
  refine hm.fb_cases.imp_right ?_
  rintro ⟨w, later, off, d, hs, hb, hw, hd, hwrite⟩
  exact ⟨w, later, off, d, hs, hb, hw, decode_host_ok.mpr hd, Memory.read_write hwrite⟩

/-- Settles O25: the block serves the write and then the read of the buffer that the write left. -/
theorem readAfterWriteRespondsWithTheByte : Obligations.ReadAfterWriteRespondsWithTheByte := by
  intro s off d later hw hwf hoff hwords
  have hwrite : s.fb.write off.toNat d = some (s.fb.put off.toNat d) := Memory.write_complete hwf hoff d
  have hread : (s.fb.put off.toNat d).read off.toNat = some d := by rw [Memory.read_write hwrite, if_pos rfl]
  obtain ⟨hstored, hw₁⟩ := hw.serves_fbWrite hwf hoff (fbWriteWord_eq off d).symm hwords
  obtain ⟨hreturned, hw₂⟩ := hw₁.serves_fbRead hoff hread (fbReadWord_eq off).symm rfl
  exact ⟨_, hstored.trans hreturned, hw₂, List.append_assoc .., rfl, rfl, rfl, Memory.read_write hwrite⟩

/-- Settles O26: adjacent slices join, and all of a whole buffer is 1024 bytes. -/
theorem pagesPartitionTheBuffer : Obligations.PagesPartitionTheBuffer :=
  fun _ hwf => ⟨fun _ hp => Memory.page_bytes hwf hp, Memory.flatMap_page hwf⟩

/-- Settles O27: offset and bit are the quotient and the remainder of the row by 8, with the column beside them. -/
theorem pixelMapIsBijective : Obligations.PixelMapIsBijective := by
  refine ⟨fun x y hx hy => ⟨pixOffset_eq x y, pixOffset_lt hx hy, pixBit_eq x y, pixBit_lt x y⟩,
    fun x y x' y' hx _ hx' _ => pix_injective hx hx', fun off k hoff hk => ?_, fun m x y hx hy hwf => ?_,
    fun m x y hout => m.pixel_of_outside (by omega)⟩
  · refine ⟨off % 128, off / 128 * 8 + k, by omega, by omega, ?_, ?_⟩
    · rw [pixOffset_eq]
      omega
    · rw [pixBit_eq]
      omega
  · obtain ⟨b, hb, hpixel⟩ := Memory.pixel_some hwf hx hy
    rw [pixOffset_eq] at hb
    rw [byteBit_eq_ofNat, pixBit_eq] at hpixel
    exact ⟨b, hb, hpixel⟩

/-- Settles O28: row 8 * page + b has the quotient page and the remainder b. -/
theorem verticalByteLayout : Obligations.VerticalByteLayout := by
  intro m page x b hwf hpage hx hb
  have hoff : pixOffset x (8 * page + b) = page * 128 + x := by
    rw [pixOffset_eq]
    omega
  have hbit : pixBit x (8 * page + b) = b := by
    rw [pixBit_eq]
    omega
  obtain ⟨v, hv, hpixel⟩ := Memory.pixel_some hwf hx (show 8 * page + b < 64 by omega)
  rw [hoff] at hv
  rw [hbit, byteBit_eq_ofBool] at hpixel
  refine ⟨v, hv, hpixel.trans ?_⟩
  cases v.getLsbD b <;> rfl

/-- Settles O29: the block serves the read, the write of the byte with the one bit replaced, and the read of that. -/
theorem pixelSetReadsBack : Obligations.PixelSetReadsBack := by
  intro s x y v b rd wr later hw hwf hx hy hb hrd hwr hwords
  obtain ⟨off, hoff⟩ : ∃ off : BitVec 16, off.toNat = pixOffset x y :=
    ⟨BitVec.ofNat 16 (pixOffset x y), Nat.mod_eq_of_lt ((pixOffset_lt hx hy).trans (by omega))⟩
  have hlt : off.toNat < 1024 := hoff ▸ pixOffset_lt hx hy
  obtain ⟨hset, hothers⟩ := Memory.pixel_put_byteWithBit hx hy hb v
  rw [← hoff] at hb hrd hwr hset hothers
  have hrdWord := Option.some.inj ((assemble_fbRd off).symm.trans hrd)
  have hwrWord := Option.some.inj ((assemble_fbWr off _).symm.trans hwr)
  obtain ⟨hread, hw₁⟩ := hw.serves_fbRead hlt hb hrdWord hwords
  obtain ⟨hstored, hw₂⟩ := hw₁.serves_fbWrite hwf hlt hwrWord rfl
  obtain ⟨hreread, hw₃⟩ := hw₂.serves_fbRead hlt (Memory.read_put_same hb _) hrdWord rfl
  refine ⟨_, byteWithBit b (pixBit x y) v, hread.trans (hstored.trans hreread), hw₃, rfl, ?_, ?_, hset, hothers⟩
  · simp [State.served, Resp.response]
  · rw [pixGetValue, byteBit_byteWithBit b _ v (pixBit_lt x y), if_pos rfl]

/-- Settles O36: the loaded actions are the eight pages of the buffer, each transaction written out. -/
theorem sendBufferLoadsEightPages : Obligations.SendBufferLoadsEightPages := by
  intro s hwf
  refine ⟨s.fb.page, fun p hp => Memory.page_bytes hwf hp, ?_⟩
  rw [exec_sendBuffer, sendBufferActions_eq]
  rfl

/-- Settles O50: a reset keeps the trace, a move appends at most one event, and at most one response (O13). -/
theorem traceOnlyGrows : Obligations.TraceOnlyGrows := by
  intro s t h
  refine ⟨?_, ?_⟩
  · have hkept (heq : t.trace = s.trace) :
        ∃ es : List Event, es.length ≤ 1 ∧ t.trace = s.trace ++ es ∧ (s.busy = false → es = []) :=
      ⟨[], by simp, by simp [heq], fun _ => rfl⟩
    obtain ⟨-, ⟨later, -, rfl⟩ | ⟨-, hm⟩⟩ := step_next h
    · exact hkept rfl
    · rcases hm.trace_cases with heq | ⟨hb, e, he⟩
      · exact hkept heq
      · exact ⟨[e], le_rfl, he, fun hidle => by simp [hidle] at hb⟩
  · rcases responseComesLast.2 s t h with heq | ⟨-, -, -, -, -, r, hr⟩ | ⟨-, hr⟩
    · exact ⟨[], by simp, by simp [heq]⟩
    · exact ⟨[r], le_rfl, hr⟩
    · exact ⟨[_], le_rfl, hr⟩

/-- Settles O56: the accepted word loads the eight pages, whose 32 writes are answered. -/
theorem sendBufferTransfersThePages : Obligations.SendBufferTransfersThePages := by
  intro s later more hi hw hwords ha
  have hstep : step s = .next ((s.accepted 0x50000000 later).load (sendBufferActions s.cfg s.fb.slice) .ack) :=
    ((step_accepts hw hwords).trans (acceptWord_ok decodeHost_sendBuffer later s)).trans (exec_sendBuffer _)
  rw [← writesOf_sendBufferActions_length s.cfg s.fb] at ha
  obtain ⟨t, hrun, hwaits, htrace, hresponses, hfb, hlater, hmore, hnoFault, -⟩ :=
    hostOperationRunsToItsResponse s _ _ later more hi hw hwords hstep hw.ready ha
  rw [State.load_seq, eventsOf_sendBufferActions] at htrace
  exact ⟨t, s.fb.page, hrun, hwaits, hfb, hlater, hmore, hresponses, hnoFault, htrace,
    fun p hp => Memory.page_bytes hi.bufferWhole hp, Memory.flatMap_page hi.bufferWhole⟩

end Sys2Proof.Machine
end

section
/-! PROOFS. The decoder against the encoder (30_encoding.md R53, R54, R57, R59, R61): what each of R57's checks makes of
a word, and that decode and encode undo each other. -/

namespace Sys2Proof

/-! ### The checks of `decode` (R57) -/

/-- A set must-be-zero bit is a rejection whatever the rest of the word holds. -/
theorem decodeHost_of_masked {w : Word} (hm : w &&& mustBeZero (opField w) ≠ 0) :
    decodeHost w = .error .reservedBits := if_pos hm

/-- With the must-be-zero bits clear, the one check left is the offset's. -/
theorem decodeHost_of_clear {w : Word} (hm : w &&& mustBeZero (opField w) = 0) :
    decodeHost w = if (selectOp w).wellFormed then .ok (selectOp w) else .error .fbRange :=
  if_neg (not_not_intro hm)

theorem decodeHost_opWord {op : BitVec 4} {rest : BitVec 28} {i : Instr} (hm : opWord op rest &&& mustBeZero op = 0)
    (hsel : selectOp (opWord op rest) = i) (hwf : i.wellFormed = true) : decodeHost (opWord op rest) = .ok i := by
  rw [decodeHost_of_clear (by rwa [opField_opWord]), hsel, if_pos hwf]

theorem offsetField_toNat (w : Word) : (offsetField w).toNat = w.toNat / 2 ^ 8 % 2 ^ 16 := by
  rw [offsetField, BitVec.extractLsb'_toNat, Nat.shiftRight_eq_div_pow]

/-- The operation a word selects is well formed unless its code is 6 or 7 and its offset is outside the buffer. -/
theorem selectOp_wellFormed_iff (w : Word) :
    (selectOp w).wellFormed = true ↔
      (w.toNat / 2 ^ 28 = 6 ∨ w.toNat / 2 ^ 28 = 7 → w.toNat / 2 ^ 8 % 2 ^ 16 < 1024) := by
  rw [← opField_toNat, ← offsetField_toNat]
  have other {op : BitVec 4} (hop : opField w = op) (hne : op.toNat ≠ 6 ∧ op.toNat ≠ 7) :
      true = true ↔ ((opField w).toNat = 6 ∨ (opField w).toNat = 7 → (offsetField w).toNat < 1024) := by
    simp [hop, hne]
  have access {op : BitVec 4} (hop : opField w = op) (hcode : op.toNat = 6 ∨ op.toNat = 7) :
      decide ((offsetField w).toNat < fbSize) = true ↔
        ((opField w).toNat = 6 ∨ (opField w).toNat = 7 → (offsetField w).toNat < 1024) := by
    rw [hop, decide_eq_true_iff]
    exact ⟨fun h _ => h, fun h => h hcode⟩
  apply selectOp_cases (P := fun i => i.wellFormed = true ↔
    ((opField w).toNat = 6 ∨ (opField w).toNat = 7 → (offsetField w).toNat < 1024)) w
  case h6 | h7 => exact fun h => access h (by decide)
  all_goals exact fun h => other h (by decide)

/-- The operation codes that have an operation, with their must-be-zero masks (R54). -/
def codeMasks : List (Nat × Word) :=
  [(1, 0x0FFFFFFF), (2, 0x0FFF0000), (3, 0x0FFFFFFE), (4, 0x0FFF0000), (5, 0x0FFFFFFF), (6, 0x0F000000),
    (7, 0x0F0000FF)]

theorem mustBeZero_eq_mask {w mask : Word} (h : (w.toNat / 2 ^ 28, mask) ∈ codeMasks) :
    mustBeZero (opField w) = mask := by
  have table : ∀ op : BitVec 4, ∀ row ∈ codeMasks, op.toNat = row.1 → mustBeZero op = row.2 := by decide
  exact table _ _ h (opField_toNat w)

theorem code_of_mem_codeMasks {code : Nat} {mask : Word} (h : (code, mask) ∈ codeMasks) : 1 ≤ code ∧ code < 8 := by
  have table : ∀ row ∈ codeMasks, 1 ≤ row.1 ∧ row.1 < 8 := by decide
  exact table _ h

/-! ### `decode` after `encode` (R53, R59) -/

theorem decodeHost_encode {i : Instr} {w : Word} (h : encode i = .host w) (hwf : i.wellFormed = true) :
    decodeHost w = .ok i := by
  cases i with
  | init | sendBuffer => exact Code.host.inj h ▸ (by decide)
  | setContrast v => exact Code.host.inj h ▸ decodeHost_setContrast v
  | setInverse f =>
    have hclear : opWord 0x3 (f.setWidth 28) &&& mustBeZero 0x3 = 0 := opWord_and _ _ _ (by decide) (flag_clear f)
    exact Code.host.inj h ▸ decodeHost_opWord hclear (by simp [selectOp, flagField_opWord]) rfl
  | setCursor p c => exact Code.host.inj h ▸ decodeHost_setCursor p c
  | fbWrite off d => exact Code.host.inj h ▸ Machine.decodeHost_fbWrite (of_decide_eq_true hwf) d
  | fbRead off => exact Code.host.inj h ▸ Machine.decodeHost_fbRead (of_decide_eq_true hwf)
  | illegalOp0 | illegalOp8 | illegalOp9 | illegalOpA | illegalOpB | illegalOpC | illegalOpD | illegalOpE
  | illegalOpF =>
    exact Code.host.inj h ▸ decodeHost_opWord (by simp [mustBeZero]) (by simp [selectOp]) rfl
  | _ => cases h

theorem encode_ne_emptyTransaction (i : Instr) : encode i ≠ .wire [] := by cases i <;> simp [encode]

theorem decodeTransaction_encode {i : Instr} {bs : List Byte} (h : encode i = .wire bs) :
    decodeTransaction bs = .ok i := by
  have hbytes : i.wireBytes = bs := by simp [Instr.wireBytes, h]
  have hne : bs ≠ [] := fun hnil => encode_ne_emptyTransaction i (hnil ▸ h)
  exact hbytes ▸ Machine.wire_decodes i (hbytes ▸ hne)

theorem decode_encode {i : Instr} (hwf : i.wellFormed = true) : decode (encode i) = .ok i := by
  cases h : encode i with
  | host w => exact decode_host_ok.mpr (decodeHost_encode h hwf)
  | wire bs => exact decode_wire_ok.mpr (decodeTransaction_encode h)

/-! ### `encode` after `decode` (R54, R61) -/

theorem wellFormed_of_wire {i : Instr} {bs : List Byte} (h : encode i = .wire bs) : i.wellFormed = true := by
  cases i with
  | fbWrite | fbRead => cases h
  | _ => rfl

/-- What decode reads is the encoding of a well-formed operation, on either port. -/
theorem encode_of_decode {x : Code} {i : Instr} (h : decode x = .ok i) : encode i = x ∧ i.wellFormed = true := by
  cases x with
  | host w => exact decodeHost_encodes (decode_host_ok.mp h)
  | wire bs =>
    have hencode : encode i = .wire bs := Machine.decodeTransaction_encodes (decode_wire_ok.mp h)
    exact ⟨hencode, wellFormed_of_wire hencode⟩

end Sys2Proof
end

section
/-! PROOFS. The operations whose meaning is a decode fault: the reserved codes (30_encoding.md R57, R58), and a buffer
access outside the buffer (R57, 40_buffer_access.md R66, R67). -/

namespace Sys2Proof.Machine

/-! ### The reserved codes -/

theorem not_reservedCode {w : Word} {op : BitVec 4} {rest : BitVec 28} (h : Code.host (opWord op rest) = .host w)
    (hop : 1 ≤ op.toNat ∧ op.toNat < 8) : ¬ ReservedCode w := by
  obtain rfl : opWord op rest = w := Code.host.inj h
  rw [ReservedCode, ← opField_toNat, opField_opWord]
  omega

/-- The meaning of a word with a reserved code is the ILLEGAL_OP fault that records the word. -/
theorem exec_reserved {i : Instr} {w : Word} (h : encode i = .host w) (hres : ReservedCode w) (s : State) :
    exec i s = .next (s.withFault .illegalOp w) := by
  rw [← hostWord_of_encode h, ← raiseFault_eq_withFault]
  cases i with
  | illegalOp0 | illegalOp8 | illegalOp9 | illegalOpA | illegalOpB | illegalOpC | illegalOpD | illegalOpE
  | illegalOpF => rfl
  | init | setContrast | setInverse | setCursor | sendBuffer | fbWrite | fbRead =>
    exact absurd hres (not_reservedCode h (by decide))
  | _ => cases h

theorem mustBeZero_of_reservedCode {w : Word} (hres : ReservedCode w) : mustBeZero (opField w) = 0 := by
  have hcodes : ∀ op : BitVec 4, op.toNat = 0 ∨ 8 ≤ op.toNat → mustBeZero op = 0 := by decide
  exact hcodes _ (opField_toNat w ▸ hres)

theorem decodeHost_reserved {w : Word} (hres : ReservedCode w) : decodeHost w = .ok (selectOp w) := by
  have hwf : (selectOp w).wellFormed = true := (selectOp_wellFormed_iff w).mpr fun hcode => by
    rw [ReservedCode] at hres
    omega
  rw [decodeHost_of_clear (by rw [mustBeZero_of_reservedCode hres]; exact BitVec.and_zero), if_pos hwf]

/-- The reserved operation codes with their operations (R58). -/
def reservedRows (rest : BitVec 28) : List (Instr × Nat) :=
  [(.illegalOp0 rest, 0x0), (.illegalOp8 rest, 0x8), (.illegalOp9 rest, 0x9), (.illegalOpA rest, 0xA),
    (.illegalOpB rest, 0xB), (.illegalOpC rest, 0xC), (.illegalOpD rest, 0xD), (.illegalOpE rest, 0xE),
    (.illegalOpF rest, 0xF)]

theorem encode_of_mem_reservedRows {rest : BitVec 28} {i : Instr} {op : Nat} (h : (i, op) ∈ reservedRows rest) :
    ∃ code : BitVec 4, code.toNat = op ∧ (code.toNat = 0 ∨ 8 ≤ code.toNat) ∧ encode i = .host (opWord code rest) := by
  refine ⟨BitVec.ofNat 4 op, ?_⟩
  simp only [reservedRows, List.mem_cons, Prod.mk.injEq, List.not_mem_nil, or_false] at h
  rcases h with ⟨rfl, rfl⟩ | ⟨rfl, rfl⟩ | ⟨rfl, rfl⟩ | ⟨rfl, rfl⟩ | ⟨rfl, rfl⟩ | ⟨rfl, rfl⟩ | ⟨rfl, rfl⟩ | ⟨rfl, rfl⟩ |
    ⟨rfl, rfl⟩
  all_goals exact ⟨rfl, by decide, rfl⟩

/-! ### A buffer access outside the buffer -/

theorem exec_fbWrite_outside {s : State} {off : BitVec 16} (hwf : s.fb.wf) (hoff : 1024 ≤ off.toNat) (d : Byte) :
    exec (.fbWrite off d) s = .next (s.withFault .fbRange (opWord 0x6 (overByte off d))) := by
  rw [← raiseFault_eq_withFault, exec, execFbWrite, Memory.write_none hwf hoff]
  rfl

theorem exec_fbRead_outside {s : State} {off : BitVec 16} (hwf : s.fb.wf) (hoff : 1024 ≤ off.toNat) :
    exec (.fbRead off) s = .next (s.withFault .fbRange (opWord 0x7 (overByte off 0))) := by
  rw [← raiseFault_eq_withFault, exec, execFbRead, Memory.read_none hwf hoff]
  rfl

end Sys2Proof.Machine
end

section
/-! PROOFS. The assembler's words as sums of fields (30_encoding.md R63), and its pseudo-operations' lines (R64). -/

namespace Sys2Proof.Machine

/-! ### Fields side by side (R53, R63) -/

/-- A field under the bits of a higher one adds to it. -/
theorem ofNat_or_ofNat {n k lo : Nat} (hi : Nat) (h : lo < 2 ^ k) :
    BitVec.ofNat n (hi * 2 ^ k) ||| BitVec.ofNat n lo = BitVec.ofNat n (hi * 2 ^ k + lo) := by
  rw [← BitVec.ofNat_or, ← Nat.shiftLeft_eq, Nat.shiftLeft_add_eq_or_of_lt h]

theorem ofNat_shiftLeft (n a k : Nat) : BitVec.ofNat n a <<< k = BitVec.ofNat n (a * 2 ^ k) := by
  apply BitVec.eq_of_toNat_eq
  simp [Nat.shiftLeft_eq]

theorem assemble_setContrast {v : Nat} (h : v ≤ 65535) :
    assemble (.setContrast v) = some (BitVec.ofNat 32 (0x20000000 + v)) := by
  rw [assemble, if_pos h]
  exact congrArg some (ofNat_or_ofNat (k := 28) 2 (by omega))

theorem assemble_setInv {f : Nat} (h : f ≤ 1) : assemble (.setInv f) = some (BitVec.ofNat 32 (0x30000000 + f)) := by
  rw [assemble, if_pos h]
  exact congrArg some (ofNat_or_ofNat (k := 28) 3 (by omega))

/-- Two operand fields below an operation code. -/
theorem opUpperLower_eq (op : Nat) {upper lower : Nat} (hu : upper ≤ 65535) (hl : lower ≤ 255) :
    BitVec.ofNat 32 (op * 2 ^ 28) ||| (BitVec.ofNat 32 upper <<< 8) ||| BitVec.ofNat 32 lower =
      BitVec.ofNat 32 (op * 2 ^ 28 + upper * 256 + lower) := by
  have hjoin : op * 2 ^ 28 + upper * 2 ^ 8 = (op * 2 ^ 20 + upper) * 2 ^ 8 := by omega
  rw [ofNat_shiftLeft, ofNat_or_ofNat op (by omega), hjoin, ofNat_or_ofNat _ (by omega), ← hjoin]
  rfl

theorem assemble_setCur {p c : Nat} (hp : p ≤ 255) (hc : c ≤ 255) :
    assemble (.setCur p c) = some (BitVec.ofNat 32 (0x40000000 + p * 256 + c)) := by
  rw [assemble, if_pos ⟨hp, hc⟩]
  exact congrArg some (opUpperLower_eq 4 (by omega) hc)

theorem assemble_fbWr_eq_sum {off d : Nat} (ho : off ≤ 65535) (hd : d ≤ 255) :
    assemble (.fbWr off d) = some (BitVec.ofNat 32 (0x60000000 + off * 256 + d)) := by
  rw [assemble, if_pos ⟨ho, hd⟩]
  exact congrArg some (opUpperLower_eq 6 ho hd)

theorem assemble_fbRd_eq_sum {off : Nat} (ho : off ≤ 65535) :
    assemble (.fbRd off) = some (BitVec.ofNat 32 (0x70000000 + off * 256)) := by
  rw [assemble, if_pos ho]
  exact congrArg some (BitVec.or_zero.symm.trans (opUpperLower_eq 7 ho (Nat.zero_le 255)))

/-! ### Pseudo-operations (R64) -/

theorem firstLines_pix {x y : Nat} (hx : x < 128) (hy : y < 64) (v : BitVec 1) :
    (Pseudo.pixGet x y).firstLines = some [.fbRd (y / 8 * 128 + x)] ∧
      (Pseudo.pixSet x y v).firstLines = some [.fbRd (y / 8 * 128 + x)] := by
  simp only [Pseudo.firstLines, if_pos (pixInRange_iff.mpr ⟨hx, hy⟩), pixOffset_eq, and_self]

theorem firstLines_pix_outside {x y : Nat} (h : ¬ (x < 128 ∧ y < 64)) (v : BitVec 1) :
    (Pseudo.pixGet x y).firstLines = none ∧ (Pseudo.pixSet x y v).firstLines = none :=
  ⟨if_neg (mt pixInRange_iff.mp h), if_neg (mt pixInRange_iff.mp h)⟩

theorem pixGetValue_eq (x y : Nat) (b : Byte) : pixGetValue x y b = if b.getLsbD (y % 8) then 1 else 0 := by
  rw [pixGetValue, byteBit_eq_ofBool, pixBit_eq]
  cases b.getLsbD (y % 8) <;> rfl

theorem linesAfterRead_pixSet (x y : Nat) (v : BitVec 1) (b : Byte) :
    (Pseudo.pixSet x y v).linesAfterRead b = [.fbWr (y / 8 * 128 + x) (byteWithBit b (y % 8) v).toNat] := by
  rw [Pseudo.linesAfterRead, pixOffset_eq, pixBit_eq]

theorem bit_eq_decide (v : BitVec 1) : v.getLsbD 0 = decide (v = 1) := by
  revert v
  decide

theorem fillLines_length (d : Nat) : (fillLines d).length = 1024 := by
  rw [fillLines, List.length_map, List.length_range]
  rfl

theorem fillLines_getElem? (d : Nat) {i : Nat} (hi : i < 1024) : (fillLines d)[i]? = some (.fbWr i d) := by
  rw [fillLines, List.getElem?_map, List.getElem?_range (show i < fbSize from hi), Option.map_some]

end Sys2Proof.Machine
end

section
/-! PROOFS. The writes of the device-side trace: which bytes the invariant lets be written (30_encoding.md R61,
41_framer.md R72, R73), and that a step ends only the write in flight (10_state.md R24). -/

namespace Sys2Proof.Machine

theorem oneWireCommand_iff {bs : List Byte} : oneWireCommand bs = true ↔ ∃ i, decode (.wire bs) = .ok i := by
  simp only [decode_wire_ok]
  cases h : decodeTransaction bs <;> simp [oneWireCommand, h]

theorem writeAllowed_iff {c : Config} {asserted : Bool} {cd : PinLevel} {bs : List Byte} :
    writeAllowed c asserted cd bs = true ↔
      (c.hasCs = true → asserted = true) ∧
        ((cd = .driven c.cdCommandLevel ∧ ∃ i, decode (.wire bs) = .ok i) ∨
          (cd = .driven c.cdCommandLevel.flip ∧ bs.length = 128)) := by
  simp only [writeAllowed, Bool.and_eq_true, Bool.or_eq_true, decide_eq_true_eq, oneWireCommand_iff]
  refine and_congr ?_ Iff.rfl
  cases c.hasCs <;> simp

/-- The bytes of a write that has ended, complete or failed. -/
def Event.written? : Event → Option (List Byte)
  | .write bs | .writeFault bs => some bs
  | .lineConfig _ _ | .lineSet _ _ | .busConfig _ _ _ | .delay _ => none

variable {s t : State}

/-- An action ends no write: the write it begins is in flight (10_state.md R22). -/
theorem doAction_ends_no_write {a : Action} (h : doAction a s = .next t) :
    t.trace = s.trace ∨ ∃ e, t.trace = s.trace ++ [e] ∧ e.written? = none := by
  obtain ⟨l, v, -, -, rfl⟩ | ⟨l, v, -, -, rfl⟩ | ⟨-, rfl⟩ | ⟨bs, -, rfl⟩ | ⟨ms, -, rfl⟩ | ⟨x, -, rfl⟩ := doAction_next h
  · exact .inr ⟨.lineConfig l v, by simp, rfl⟩
  · exact .inr ⟨.lineSet l v, by simp, rfl⟩
  · exact .inr ⟨_, rfl, rfl⟩
  · exact .inl rfl
  · exact .inl rfl
  · exact .inl rfl

/-- The transport ends the write in flight, or stalls (10_state.md R24). -/
theorem transportStep_ends_write {bs : List Byte} (h : transportStep bs s = .next t) :
    t.trace = s.trace ∨ ∃ e, t.trace = s.trace ++ [e] ∧ e.written? = some bs := by
  obtain ⟨later, -, rfl⟩ | ⟨later, -, rfl⟩ | ⟨-, -, rfl⟩ := transportStep_next h
  · exact .inr ⟨_, rfl, rfl⟩
  · exact .inr ⟨.writeFault bs, by simp, rfl⟩
  · exact .inl rfl

/-- The only write a move can end is the one in flight. -/
theorem BlockMove.written_was_pending (h : BlockMove s t) :
    t.trace = s.trace ∨ ∃ e, t.trace = s.trace ++ [e] ∧ ∀ bs, e.written? = some bs → s.pending = .write bs := by
  cases h with
  | quiet => exact .inl rfl
  | complete => exact .inl (State.complete_trace s)
  | accept w later i t hs hb hw hd hm he => exact .inl hm.keeps_trace
  | reject => exact .inl (State.raiseFault_trace ..)
  | action a rest t hb hn hp hq hd =>
    refine (doAction_ends_no_write hd).imp_right ?_
    rintro ⟨e, ht, he⟩
    exact ⟨e, ht, fun bs hbs => by simp [he] at hbs⟩
  | transport bs t hb hn hp ht =>
    refine (transportStep_ends_write ht).imp_right ?_
    rintro ⟨e, ht, he⟩
    exact ⟨e, ht, fun bs' hbs => by rw [hp, Option.some.inj (he.symm.trans hbs)]⟩
  | timer ms hb hp => exact .inr ⟨.delay ms, rfl, nofun⟩

/-- The bytes whose write a step ends were in flight (10_state.md R24). -/
theorem pending_of_step_writes {bs : List Byte} (h : step s = .next t)
    (ht : t.trace = s.trace ++ [.write bs] ∨ t.trace = s.trace ++ [.writeFault bs]) : s.pending = .write bs := by
  obtain ⟨e, ht, he⟩ : ∃ e, t.trace = s.trace ++ [e] ∧ Event.written? e = some bs :=
    ht.elim (fun ht => ⟨_, ht, rfl⟩) (fun ht => ⟨_, ht, rfl⟩)
  have hmore : t.trace ≠ s.trace := fun heq => by simp [heq] at ht
  obtain ⟨-, ⟨later, -, rfl⟩ | ⟨-, hm⟩⟩ := step_next h
  · exact absurd rfl hmore
  · rcases hm.written_was_pending with heq | ⟨e', ht', hpending⟩
    · exact absurd heq hmore
    · obtain rfl : e = e' := by simpa using ht.symm.trans ht'
      exact hpending bs he

end Sys2Proof.Machine
end

section
/-! PROOFS. The statements of the family 30_encoding.md, settled. -/

namespace Sys2Proof.Machine

/-- Settles O1: a host word's fields read back what its format put there, and the wire commands are told apart. -/
theorem decodeOfEncodeIsIdentity : Obligations.DecodeOfEncodeIsIdentity := fun _ hwf => decode_encode hwf

/-- Settles O2: a word with its must-be-zero bits clear is its operation's encoding, a byte list its command's. -/
theorem encodeOfDecodeIsIdentity : Obligations.EncodeOfDecodeIsIdentity := fun _ _ h => encode_of_decode h

/-- Settles O3: each check of the word decides decode, and decode decides the step. -/
theorem decodeChecksInOrder : Obligations.DecodeChecksInOrder := by
  intro s w later hw hwords
  have hstep : step s = acceptWord w later s := step_accepts hw hwords
  have hreject {r : WordReject} (hd : decodeHost w = .error r) :
      step s = .next ((s.withRequest w later).withFault (rejectFault r) w) := by
    rw [hstep, acceptWord_error hd, raiseFault_eq_withFault]
    rfl
  refine ⟨fun hres => ?_, fun mask hmask => ?_⟩
  · have hd : decodeHost w = .ok (selectOp w) := decodeHost_reserved hres
    rw [hstep, acceptWord_ok hd, exec_reserved (decodeHost_encodes hd).1 hres]
    rfl
  obtain rfl : mustBeZero (opField w) = mask := mustBeZero_eq_mask hmask
  have hcode := code_of_mem_codeMasks hmask
  refine ⟨fun hset => hreject (decodeHost_of_masked hset), fun hclear haccess hoff => ?_, fun hclear hok => ?_⟩
  · have hwf : ¬ (selectOp w).wellFormed = true := fun hwf => by
      have := (selectOp_wellFormed_iff w).mp hwf
      omega
    exact hreject ((decodeHost_of_clear hclear).trans (if_neg hwf))
  · have hwf : (selectOp w).wellFormed = true := (selectOp_wellFormed_iff w).mpr (by omega)
    have hd : decodeHost w = .ok (selectOp w) := (decodeHost_of_clear hclear).trans (if_pos hwf)
    exact ⟨selectOp w, hwf, encode_selectOp hclear, hstep.trans (acceptWord_ok hd later s)⟩

/-- Settles O24: where the buffer has no byte, the meaning faults with the operation's encoding. -/
theorem bufferOffsetOutOfRangeFaults : Obligations.BufferOffsetOutOfRangeFaults := by
  intro off d s hwf hoff
  rw [fbWriteWord_eq, fbReadWord_eq]
  exact ⟨exec_fbWrite_outside hwf hoff d, exec_fbRead_outside hwf hoff⟩

/-- Settles O30: the pixel's byte and bit are the quotient and the remainder of the row by 8. -/
theorem pseudoOperationsExpand : Obligations.PseudoOperationsExpand := by
  refine ⟨fun x y hx hy => ?_, fun x y v hout => firstLines_pix_outside (by omega) v,
    fun d => ⟨fillLines d, rfl, fillLines_length d, fun i hi => fillLines_getElem? d hi⟩, rfl, rfl⟩
  refine ⟨(firstLines_pix hx hy 0).1, fun b => ⟨rfl, pixGetValue_eq x y b⟩, fun v =>
    ⟨(firstLines_pix hx hy v).2, fun b => ⟨_, linesAfterRead_pixSet x y v b, fun j hj => ?_⟩⟩⟩
  rw [byteWithBit_getLsbD b _ v hj, bit_eq_decide]

/-- Settles O31: the operand fields do not overlap, so joining them adds them. -/
theorem assemblerWords : Obligations.AssemblerWords :=
  ⟨rfl, rfl, fun _ => ⟨assemble_setContrast, fun h => if_neg (by omega)⟩,
    fun _ => ⟨assemble_setInv, fun h => if_neg (by omega)⟩,
    fun _ _ => ⟨assemble_setCur, fun h => if_neg (by omega)⟩,
    fun _ _ => ⟨assemble_fbWr_eq_sum, fun h => if_neg (by omega)⟩,
    fun _ => ⟨assemble_fbRd_eq_sum, fun h => if_neg (by omega)⟩,
    fun _ => ⟨fun h => if_pos h, fun h => if_neg (by omega)⟩⟩

/-- Settles O33: the loaded transaction written out, with the parameter byte as a number. -/
theorem setContrastLoadsOneCommand : Obligations.SetContrastLoadsOneCommand := by
  intro v s
  rw [← contrastByte_toNat, ← frameCmd_eq_commandActions]
  rfl

/-- Settles O35: the three loaded transactions written out, with their bytes as numbers. -/
theorem setCursorLoadsThreeCommands : Obligations.SetCursorLoadsThreeCommands := by
  intro p c s
  rw [← pageByte_toNat, ← columnLowByte_toNat, ← columnHighByte_toNat]
  simp only [← frameCmd_eq_commandActions]
  rfl

/-- Settles O37: the word is the code's encoding, and its meaning is the fault that records it. -/
theorem reservedCodesRaiseIllegalOp : Obligations.ReservedCodesRaiseIllegalOp := by
  intro rest s i op h
  obtain ⟨code, rfl, hcode, hencode⟩ := encode_of_mem_reservedRows h
  have hres : ReservedCode (opWord code rest) := reservedCode_opWord rfl hcode
  rw [← opWord_toNat, BitVec.ofNat_toNat, BitVec.setWidth_eq]
  exact exec_reserved hencode hres s

/-- Settles O44: the bytes were in flight, and the invariant says which bytes may be. -/
theorem writesAreCommandsOrPages : Obligations.WritesAreCommandsOrPages := by
  intro s t bs hi h ht
  obtain ⟨-, hallowed⟩ := hi.pendingWrite bs (pending_of_step_writes h ht)
  obtain ⟨hcs, hbytes⟩ := writeAllowed_iff.mp hallowed
  exact ⟨hbytes, fun hline => of_decide_eq_true (hcs hline)⟩

/-- Settles O4: decode evaluates on each of these words. -/
theorem specWordsDecode : Obligations.SpecWordsDecode := by
  unfold Obligations.SpecWordsDecode
  decide

/-- Settles O5: decode evaluates on each of these byte lists. -/
theorem specWireBytesDecode : Obligations.SpecWireBytesDecode := by
  unfold Obligations.SpecWireBytesDecode
  decide

end Sys2Proof.Machine
end

section
/-! PROOFS. The statements of the family 40_buffer_access.md, settled. -/

namespace Sys2Proof.Machine

/-- Settles O22: a whole buffer has a byte at the offset, so the store succeeds and replaces that byte alone. -/
theorem fbWriteStoresOneByte : Obligations.FbWriteStoresOneByte := by
  intro off d s hwf hoff
  have hwrite : s.fb.write off.toNat d = some (s.fb.put off.toNat d) := Memory.write_complete hwf hoff d
  exact ⟨_, exec_fbWrite hwf hoff d, Memory.write_wf hwf hwrite, Memory.read_write hwrite⟩

/-- Settles O23: a whole buffer has a byte at the offset, and the meaning loads it as the response. -/
theorem fbReadReturnsTheByte : Obligations.FbReadReturnsTheByte := by
  intro off s hwf hoff
  obtain ⟨b, hread⟩ := Memory.read_some hwf hoff
  exact ⟨b, hread, exec_fbRead hread⟩

end Sys2Proof.Machine
end

section
/-! PROOFS. The framer (41_framer.md): what one transaction is with a chip-select line and without, what may happen
inside a chip-select bracket (20_memory.md R47, R78), and which bus configuration the trace holds for a write (R76). -/

namespace Sys2Proof.Machine

/-! ### One transaction, for each choice of lines (R72, R73, R74) -/

theorem frame_of_hasCs {c : Config} (h : c.hasCs = true) (cd : Level) (bs : List Byte) :
    frame c cd bs = [.busConfig, .lineSet .cs c.csActiveLevel.flip, .lineSet .cd cd, .lineSet .cs c.csActiveLevel,
      .busWrite bs, .lineSet .cs c.csActiveLevel.flip] := (frame_eq c cd bs).trans (if_pos h)

theorem frame_of_noCs {c : Config} (h : c.hasCs = false) (cd : Level) (bs : List Byte) :
    frame c cd bs = [.busConfig, .lineSet .cd cd, .busWrite bs] := (frame_eq c cd bs).trans (if_neg (by simp [h]))

theorem frame_head (c : Config) (cd : Level) (bs : List Byte) : (frame c cd bs).head? = some .busConfig := rfl

/-! ### The bus configuration of a write (R76) -/

/-- What leaves the bus configured is a bus configuration, or an event that ends no write on a bus already configured. -/
theorem configuredAfter_cases {k : Bool} {e : Event} (h : configuredAfter k e = true) :
    (∃ rate cpol cpha, e = .busConfig rate cpol cpha) ∨ (k = true ∧ e.written? = none) := by
  cases e with
  | busConfig rate cpol cpha => exact .inl ⟨rate, cpol, cpha, rfl⟩
  | write bs | writeFault bs => cases h
  | lineConfig l v | lineSet l v | delay ms => exact .inr ⟨h, rfl⟩

/-- On a configured bus, the trace's last bus configuration has no write after it. -/
theorem busConfig_of_busConfigured {tr : List Event} (h : busConfigured tr = true) :
    ∃ before rate cpol cpha after, tr = before ++ [.busConfig rate cpol cpha] ++ after ∧
      ∀ e ∈ after, e.written? = none := by
  induction tr using List.reverseRecOn with
  | nil => cases h
  | append_singleton tr e ih =>
    rw [busConfigured_append] at h
    rcases configuredAfter_cases h with ⟨rate, cpol, cpha, rfl⟩ | ⟨hconfigured, hnoWrite⟩
    · exact ⟨tr, rate, cpol, cpha, [], (List.append_nil _).symm, nofun⟩
    · obtain ⟨before, rate, cpol, cpha, after, rfl, hafter⟩ := ih hconfigured
      refine ⟨before, rate, cpol, cpha, after ++ [e], List.append_assoc .., fun e' he' => ?_⟩
      rcases List.mem_append.mp he' with hm | hm
      · exact hafter e' hm
      · exact List.mem_singleton.mp hm ▸ hnoWrite

/-! ### Inside a chip-select bracket (R47, R72, R73) -/

theorem level_eq_flip_of_ne {v x : Level} (h : v ≠ x) : v = x.flip := by
  revert h
  cases v <;> cases x <;> decide

/-- With chip-select asserted, whole transactions go on with their write or their closing deassertion. -/
theorem head_of_framedFrom_asserted {c : Config} {k : Bool} {cd : PinLevel} {a : Action} {rest : List Action}
    (h : framedFrom c k true cd (a :: rest) = true) :
    (∃ bs, a = .busWrite bs) ∨ a = .lineSet .cs c.csActiveLevel.flip := by
  cases a with
  | busWrite bs => exact .inl ⟨bs, rfl⟩
  | lineSet l v =>
    cases l with
    | cs =>
      have hv : v ≠ c.csActiveLevel := by
        rintro rfl
        simp [framedFrom, Config.csAssert] at h
      exact .inr (congrArg _ (level_eq_flip_of_ne hv))
    | rst | cd => cases h
  | lineConfig l v => cases l <;> cases h
  | busConfig | wait ms | setSess x => cases h

variable {s t : State}

theorem ExecMove.keeps_lvlCd (h : ExecMove s t) : t.lvlCd = s.lvlCd := by cases h <;> simp

theorem transportStep_keeps_lvlCd {bs : List Byte} (h : transportStep bs s = .next t) : t.lvlCd = s.lvlCd := by
  obtain ⟨later, -, rfl⟩ | ⟨later, -, rfl⟩ | ⟨-, -, rfl⟩ := transportStep_next h <;> simp

/-- An event that may be emitted inside a chip-select bracket: the write, or the line's closing deassertion. -/
def Event.insideBracket (c : Config) (e : Event) : Prop :=
  e.written?.isSome = true ∨ e = .lineSet .cs c.csActiveLevel.flip

/-- A move with chip-select asserted keeps the command/data level, and emits nothing but what a bracket may hold. -/
theorem BlockMove.insideBracket (hi : s.Inv) (hcs : s.csAsserted = true) (h : BlockMove s t) :
    t.lvlCd = s.lvlCd ∧ (t.trace = s.trace ∨ ∃ e, t.trace = s.trace ++ [e] ∧ e.insideBracket s.cfg) := by
  cases h with
  | quiet => exact ⟨rfl, .inl rfl⟩
  | accept w later i t hs hb hw hd hm he => exact ⟨hm.keeps_lvlCd, .inl hm.keeps_trace⟩
  | reject => exact ⟨State.raiseFault_lvlCd .., .inl (State.raiseFault_trace ..)⟩
  | complete => exact ⟨State.complete_lvlCd s, .inl (State.complete_trace s)⟩
  | action a rest t hb hn hp hq hd =>
    have hframed := hi.framed hb
    rw [hcs, hq] at hframed
    rcases head_of_framedFrom_asserted hframed with ⟨bs, rfl⟩ | rfl
    · obtain rfl := Host.Outcome.next.inj hd
      exact ⟨rfl, .inl rfl⟩
    · obtain ⟨-, rfl⟩ := lineAction_next hd
      exact ⟨rfl, .inr ⟨_, rfl, .inr rfl⟩⟩
  | transport bs t hb hn hp ht =>
    refine ⟨transportStep_keeps_lvlCd ht, (transportStep_ends_write ht).imp_right ?_⟩
    rintro ⟨e, htrace, he⟩
    exact ⟨e, htrace, .inl (by simp [he])⟩
  | timer ms hb hp =>
    have hdeasserted : s.csAsserted = false := (hi.pendingDelay ms hp).2
    cases hcs.symm.trans hdeasserted

end Sys2Proof.Machine
end

section
/-! PROOFS. The statements of the family 41_framer.md, settled. -/

namespace Sys2Proof.Machine

/-- Settles O34: the loaded transaction written out, with the command's two values told apart. -/
theorem setInverseLoadsOneCommand : Obligations.SetInverseLoadsOneCommand := by
  intro f s
  rw [← inverseByte_ite, ← frameCmd_eq_commandActions]
  rfl

/-- Settles O42: every event of the trace is on a present line, and a level is held for present lines only. -/
theorem noChipSelectNoChipSelectEvents : Obligations.NoChipSelectNoChipSelectEvents := by
  refine ⟨fun c bs h => ⟨frame_of_noCs h _ bs, frame_of_noCs h _ bs⟩, fun s t hi h hstep => ?_⟩
  have ht : t.Inv := step_keeps_inv hi hstep
  have hnoCs : t.cfg.hasCs = false := by rw [(configurationNeverChanges s t hstep).1, h]
  have hnoLevel : t.lvlCs.isSome = false := ht.csPresence.trans hnoCs
  have hnoEvent (e : Event) (he : eventAllowed t.cfg e = t.cfg.hasCs) : e ∉ t.trace := fun hm => by
    cases (ht.traceAllowed e hm).symm.trans (he.trans hnoCs)
  exact ⟨by simpa using hnoLevel, fun v => ⟨hnoEvent _ rfl, hnoEvent _ rfl⟩⟩

/-- Settles O43: the write was in flight on a configured bus, and the invariant fixes the values of that configuration. -/
theorem everyWriteFollowsItsOwnBusConfig : Obligations.EveryWriteFollowsItsOwnBusConfig := by
  refine ⟨fun c bs => ⟨frame_head c _ bs, frame_head c _ bs⟩, fun s t bs hi h ht => ?_⟩
  obtain ⟨hconfigured, -⟩ := hi.pendingWrite bs (pending_of_step_writes h ht)
  obtain ⟨before, rate, cpol, cpha, after, htrace, hafter⟩ := busConfig_of_busConfigured hconfigured
  have hallowed : eventAllowed s.cfg (.busConfig rate cpol cpha) = true := hi.traceAllowed _ (by simp [htrace])
  obtain ⟨rfl, rfl, rfl⟩ := of_decide_eq_true hallowed
  refine ⟨before, after, htrace, fun e he xs => ⟨?_, ?_⟩⟩
  · rintro rfl
    cases hafter _ he
  · rintro rfl
    cases hafter _ he

/-- Settles O49: whole transactions let only the write and the closing deassertion happen inside a bracket. -/
theorem commandDataHeldWhileChipSelectAsserted : Obligations.CommandDataHeldWhileChipSelectAsserted := by
  refine ⟨fun s t hi hcs h hr => ?_, fun c bs h x hx => ?_⟩
  · obtain ⟨-, ⟨later, hlow, -⟩ | ⟨-, hm⟩⟩ := step_next h
    · simp [hlow] at hr
    obtain ⟨hcd, hkept | ⟨e, htrace, he⟩⟩ := hm.insideBracket (hi.withRstN s.rstN.tail) hcs
    · exact ⟨hcd, .inl hkept⟩
    refine ⟨hcd, .inr ?_⟩
    rcases he with hwrite | rfl
    · cases e with
      | write bs => exact .inl ⟨bs, htrace⟩
      | writeFault bs => exact .inr (.inl ⟨bs, htrace⟩)
      | lineConfig | lineSet | busConfig | delay => cases hwrite
    · exact .inr (.inr htrace)
  · simp only [List.mem_cons, List.not_mem_nil, or_false] at hx
    rcases hx with rfl | rfl
    · exact frame_of_hasCs h _ bs
    · exact frame_of_hasCs h _ bs

/-- Settles O41: a transaction written out for each choice of lines. -/
theorem framingFollowsTheConfiguration : Obligations.FramingFollowsTheConfiguration :=
  ⟨fun _ bs h => ⟨frame_of_hasCs h _ bs, frame_of_hasCs h _ bs⟩,
    fun _ bs h => ⟨frame_of_noCs h _ bs, frame_of_noCs h _ bs⟩, fun _ _ _ => rfl⟩

end Sys2Proof.Machine
end

section
/-! PROOFS. The initialization (42_session.md R79 to R82): its actions written out, the writes it makes and the events it
emits; and how many events whole operations emit (R82, 43_transfer.md R88). -/

namespace Sys2Proof.Machine

/-! ### What `INIT` loads (R80, R82) -/

/-- The rows after the first are the configuration rows and the cursor's (R80). -/
theorem initializationRows_tail :
    initializationRows.tail = configurationRows ++ [[pageByte 0], [columnLowByte 0], [columnHighByte 0]] := by decide

theorem initActions_eq (c : Config) :
    initActions c = [.setSess .uninit] ++ resetPulse c ++ commandActions c [0xE2] ++ [.setSess .config]
      ++ initializationRows.tail.flatMap (commandActions c) ++ [.setSess .ready] := by
  rw [initActions, show frameCmd c = commandActions c from funext (frameCmd_eq_commandActions c),
    initializationRows_tail]
  simp [cursor, frameCmd_eq_commandActions]

theorem exec_init (s : State) : exec .init s = .next (s.load (initActions s.cfg) .ack) := rfl

theorem writesOf_initActions (c : Config) : writesOf (initActions c) = initializationRows := by
  simp [initActions, writesOf_cons, Action.write?, initializationRows_eq]

/-! ### Its events (R79, R82) -/

theorem eventsOf_commandActions (c : Config) (bs : List Byte) :
    eventsOf c (commandActions c bs) = commandEvents c bs := eventsOf_transactionActions ..

theorem eventsOf_resetPulse (c : Config) : eventsOf c (resetPulse c) = pulseEvents c := by
  unfold resetPulse pulseEvents
  split <;> rfl

theorem eventsOf_initActions (c : Config) : eventsOf c (initActions c) = initEvents c := by
  rw [initActions_eq, initEvents, show initializationRows = [0xE2] :: initializationRows.tail from rfl]
  simp [Action.events, eventsOf_commandActions, eventsOf_resetPulse]

/-! ### How many events (R82, 43_transfer.md R88) -/

theorem length_flatMap_of_length_eq {α β : Type} {f : α → List β} {n : Nat} (h : ∀ x, (f x).length = n) (xs : List α) :
    (xs.flatMap f).length = xs.length * n := by
  simp [List.length_flatMap, h]

theorem commandEvents_length (c : Config) (bs : List Byte) :
    (commandEvents c bs).length = if c.hasCs then 6 else 3 := by
  rw [← eventsOf_commandActions, ← frameCmd_eq_commandActions, frameCmd_length]

theorem pulseEvents_length (c : Config) : (pulseEvents c).length = if c.hasRst then 3 else 0 := by
  unfold pulseEvents
  split <;> rfl

theorem initEvents_length (c : Config) :
    (initEvents c).length = (if c.hasRst then 3 else 0) + 16 * if c.hasCs then 6 else 3 := by
  rw [initEvents, List.length_append, pulseEvents_length, length_flatMap_of_length_eq (commandEvents_length c)]
  rfl

theorem eventsOf_pageActions_length (c : Config) (slice : Nat → Nat → List Byte) (p : Nat) :
    (eventsOf c (pageActions c slice p)).length = 4 * if c.hasCs then 6 else 3 := by
  rw [pageActions, eventsOf_append, List.length_append, cursor_length, frameData_length]
  omega

theorem eventsOf_sendBufferActions_length (c : Config) (slice : Nat → Nat → List Byte) :
    (eventsOf c (sendBufferActions c slice)).length = 32 * if c.hasCs then 6 else 3 := by
  rw [sendBufferActions, eventsOf_flatMap, length_flatMap_of_length_eq (eventsOf_pageActions_length c slice),
    ← Nat.mul_assoc, List.length_range]
  rfl

end Sys2Proof.Machine
end

section
/-! PROOFS. The level registers after a list of actions (10_state.md R18, R22): what a transaction and the initialization
leave on each line. -/

namespace Sys2Proof.Machine

variable {α : Type} (f : Level → α) (x : α) (c : Config)

theorem levelAfter_append (l : Line) (as bs : List Action) :
    levelAfter f l x (as ++ bs) = levelAfter f l (levelAfter f l x as) bs := by
  induction as generalizing x with
  | nil => rfl
  | cons a as ih => rw [List.cons_append, levelAfter_cons, ih, ← levelAfter_cons]

/-- Actions that name other lines leave a line's level. -/
theorem levelAfter_of_undriven {l : Line} {as : List Action} (h : ∀ a ∈ as, a.line? ≠ some l) :
    levelAfter f l x as = x := by
  have hdrives : ∀ a ∈ as, a.drives? l = none := fun a ha => by
    have hline := h a ha
    cases a with
    | lineConfig l' v | lineSet l' v => exact if_neg fun heq => hline (congrArg some heq)
    | busConfig | busWrite | wait | setSess => rfl
  rw [levelAfter, List.filterMap_eq_nil_iff.mpr hdrives]
  rfl

/-- A line the configuration lacks is driven by no action on present lines (R22). -/
theorem levelAfter_of_absent {l : Line} {as : List Action}
    (hlines : ∀ a ∈ as, ∀ l, a.line? = some l → hasLine c l = true) (h : hasLine c l = false) :
    levelAfter f l x as = x :=
  levelAfter_of_undriven f x fun a ha hl => by cases h.symm.trans (hlines a ha l hl)

/-! ### One transaction (41_framer.md R72, R73, R74) -/

theorem frame_noRst (cd : Level) (bs : List Byte) : ∀ a ∈ frame c cd bs, a.line? ≠ some .rst := by
  rw [frame_eq]
  split <;> simp [Action.line?]

theorem levelAfter_cs_frame (cd : Level) (bs : List Byte) :
    levelAfter f .cs x (frame c cd bs) = if c.hasCs then f c.csActiveLevel.flip else x := by
  rw [frame_eq]
  split <;> rfl

theorem levelAfter_cd_frame (cd : Level) (bs : List Byte) : levelAfter f .cd x (frame c cd bs) = f cd := by
  rw [frame_eq]
  split <;> rfl

/-! ### The initialization (42_session.md R79, R80, R82) -/

/-- The initialization ends with the cursor's last transaction. -/
theorem initActions_ends : ∃ before, initActions c = before ++ frameCmd c [columnHighByte 0] ++ [.setSess .ready] :=
  ⟨_, by rw [initActions, cursor, ← List.append_assoc]⟩

theorem levelAfter_setSess (l : Line) (y : Sess) : levelAfter f l x [.setSess y] = x := rfl

theorem levelAfter_cs_initActions (h : c.hasCs = true) :
    levelAfter f .cs x (initActions c) = f c.csActiveLevel.flip := by
  obtain ⟨before, heq⟩ := initActions_ends c
  rw [heq, levelAfter_append, levelAfter_append, levelAfter_setSess, frameCmd, levelAfter_cs_frame, if_pos h]

theorem levelAfter_cd_initActions : levelAfter f .cd x (initActions c) = f c.cdCommandLevel := by
  obtain ⟨before, heq⟩ := initActions_ends c
  rw [heq, levelAfter_append, levelAfter_append, levelAfter_setSess, frameCmd, levelAfter_cd_frame]
  rfl

/-- The reset line is left as the reset pulse leaves it: no transaction drives it. -/
theorem levelAfter_rst_initActions (h : c.hasRst = true) : levelAfter f .rst x (initActions c) = f .high := by
  have htransactions (y : α) (rows : List (List Byte)) :
      levelAfter f .rst y (rows.flatMap (frameCmd c)) = y := by
    refine levelAfter_of_undriven f y fun a ha => ?_
    obtain ⟨bs, -, hm⟩ := List.mem_flatMap.mp ha
    exact frame_noRst c _ bs a hm
  have htransaction (y : α) (bs : List Byte) : levelAfter f .rst y (frameCmd c bs) = y :=
    levelAfter_of_undriven f y (frame_noRst c _ bs)
  have hpulse (y : α) : levelAfter f .rst y (resetPulse c) = f .high := by
    rw [resetPulse, if_pos h]
    rfl
  simp only [initActions, cursor, levelAfter_append, levelAfter_setSess, htransaction, htransactions, hpulse]

end Sys2Proof.Machine
end

section
/-! PROOFS. An operation of one command transaction, run from a waiting block (10_state.md R26, R27, 41_framer.md R72). -/

namespace Sys2Proof.Machine

variable {s : State} {w : Word} {later : List Word} {bs : List Byte} {more : List TransportAnswer}

/-- The waiting block after the operation `w`, whose one command transaction of `bs` was answered. -/
def State.commanded (w : Word) (later : List Word) (bs : List Byte) (more : List TransportAnswer) (s : State) : State :=
  { s with
    curOp := w
    fromHost := true
    resp := .ack
    lvlCs := if s.cfg.hasCs then some (.driven s.cfg.csActiveLevel.flip) else s.lvlCs
    lvlCd := .driven s.cfg.cdCommandLevel
    trace := s.trace ++ commandEvents s.cfg bs
    responses := s.responses ++ [.ack]
    hostWords := later
    answers := more }

theorem State.Waiting.commanded (hw : s.Waiting) : (s.commanded w later bs more).Waiting := { hw with }

/-- The state that the transaction's actions leave, completed, is that block. -/
theorem State.Waiting.complete_ran_command (hw : s.Waiting) :
    ((State.load (frameCmd s.cfg bs) .ack (s.accepted w later)).ran (frameCmd s.cfg bs) [] more).complete
      = s.commanded w later bs more := by
  rw [complete_eq]
  simp only [State.ran, State.load, State.accepted, State.commanded, frameCmd, sessAfter_frame, levelAfter_cs_frame,
    levelAfter_cd_frame, levelAfter_of_undriven _ _ (frame_noRst _ _ _), if_true, hw.empty, hw.idle]
  rw [← frameCmd, frameCmd_eq_commandActions, eventsOf_commandActions]
  rfl

/-- A waiting block runs an operation that loads one command transaction, when its write is answered. -/
theorem State.Waiting.leadsTo_commanded (hw : s.Waiting) (hclock : s.clockRate = s.cfg.sclkHz)
    (hwords : s.hostWords = w :: later) (ha : s.answers = .ok :: more) {i : Instr} (hd : decodeHost w = .ok i)
    (he : exec i (s.accepted w later) = .next (State.load (frameCmd s.cfg bs) .ack (s.accepted w later))) :
    s.LeadsTo (s.commanded w later bs more) := by
  have hworking : (State.load (frameCmd s.cfg bs) .ack (s.accepted w later)).Working :=
    ⟨hw.configAdmitted, by simp [hw.ready], rfl, hw.nonePending, hw.released⟩
  have hpath : sessionPath .ready (frameCmd s.cfg bs) = true := by
    simpa [sessionPath] using sessionPath_frameCmd s.cfg bs .ready []
  rw [← hw.complete_ran_command]
  refine .step (((step_accepts hw hwords).trans (acceptWord_ok hd later s)).trans he) ?_
  refine hworking.leadsTo_complete hclock (frame_linesPresent s.cfg _ bs)
    (setSess_faulted_not_mem_of_sessionPath hpath) ?_
  rw [State.load_seq, writesOf_frameCmd]
  exact ha

/-- The second time, the levels are driven to what they are (R22). -/
theorem State.commanded_commanded (later' : List Word) (more' : List TransportAnswer) :
    (s.commanded w later' bs more').commanded w later bs more = { s.commanded w later' bs more' with
      trace := (s.commanded w later' bs more').trace ++ commandEvents s.cfg bs
      responses := (s.commanded w later' bs more').responses ++ [.ack]
      hostWords := later
      answers := more } := by
  cases h : s.cfg.hasCs <;> simp [State.commanded, h]

end Sys2Proof.Machine
end

section
/-! PROOFS. The construction sequence (70_reset_and_hazards.md R107): its line configurations in every order, and the run
from the reset values. -/

namespace Sys2Proof.Machine

/-! ### Lists whose parts have one element at most -/

/-- Permuting the concatenation of parts of at most one element each permutes the parts. -/
theorem exists_perm_of_perm_flatMap {α β : Type} {f : α → List β} (hf : ∀ x, f x = [] ∨ ∃ y, f x = [y]) {ys : List β}
    {xs : List α} (h : ys.Perm (xs.flatMap f)) : ∃ xs' : List α, xs'.Perm xs ∧ ys = xs'.flatMap f := by
  induction ys generalizing xs with
  | nil => exact ⟨xs, .refl xs, h.symm.eq_nil.symm⟩
  | cons y ys ih =>
    obtain ⟨x, hx, hy⟩ := List.mem_flatMap.mp (h.subset List.mem_cons_self)
    have hfx : f x = [y] := by
      rcases hf x with hnone | ⟨y', hone⟩
      · simp [hnone] at hy
      · rw [hone] at hy ⊢
        rw [List.mem_singleton.mp hy]
    obtain ⟨before, after, rfl⟩ := List.append_of_mem hx
    have hrest : ys.Perm ((before ++ after).flatMap f) := by
      rw [List.flatMap_append, List.flatMap_cons, hfx] at h
      rw [List.flatMap_append]
      exact (h.trans List.perm_middle).cons_inv
    obtain ⟨xs', hperm, rfl⟩ := ih hrest
    exact ⟨x :: xs', (hperm.cons x).trans List.perm_middle.symm, by rw [List.flatMap_cons, hfx]; rfl⟩

/-! ### The line configurations (R107) -/

theorem lineConfigs_eq (c : Config) : lineConfigs c = [Line.cd, .rst, .cs].flatMap (lineConfigOf c) := by
  simp [lineConfigs, lineConfigOf, Config.csDeassert]

theorem orderedLines_perm (o : LineOrder) : (orderedLines o).Perm [.cd, .rst, .cs] := by
  cases o <;> decide

/-- The six line orders are all orders of the three lines. -/
theorem exists_orderedLines_of_perm {ls : List Line} (h : ls.Perm [.cd, .rst, .cs]) : ∃ o, orderedLines o = ls := by
  have hall : ∀ ls ∈ [Line.cd, .rst, .cs].permutations',
      ls ∈ [LineOrder.cdRstCs, .cdCsRst, .rstCdCs, .rstCsCd, .csCdRst, .csRstCd].map orderedLines := by decide
  obtain ⟨o, -, ho⟩ := List.mem_map.mp (hall ls (List.mem_permutations'.mpr h))
  exact ⟨o, ho⟩

theorem orderedLineConfigs_perm (c : Config) (o : LineOrder) :
    ((orderedLines o).flatMap (lineConfigOf c)).Perm (lineConfigs c) := by
  rw [lineConfigs_eq]
  exact (orderedLines_perm o).flatMap_right _

theorem exists_construction_of_perm {c : Config} {lines : List Action} (h : lines.Perm (lineConfigs c)) :
    ∃ o, construction c o = lines ++ initActions c := by
  have hf (l : Line) : lineConfigOf c l = [] ∨ ∃ a, lineConfigOf c l = [a] :=
    (lineConfigOf_cases c l).imp_right fun ⟨_, hone, _⟩ => ⟨_, hone⟩
  rw [lineConfigs_eq] at h
  obtain ⟨ls, hperm, rfl⟩ := exists_perm_of_perm_flatMap hf h
  obtain ⟨o, rfl⟩ := exists_orderedLines_of_perm hperm
  exact ⟨o, rfl⟩

/-! ### Its writes, and the levels it leaves -/

variable (c : Config) (o : LineOrder)

theorem writesOf_construction : writesOf (construction c o) = initializationRows := by
  rw [construction, writesOf_append, writesOf_initActions]
  simp

theorem levelAfter_rst_construction {α : Type} (f : Level → α) (x : α) :
    levelAfter f .rst x (construction c o) = if c.hasRst then f .high else x := by
  cases h : c.hasRst with
  | false => exact levelAfter_of_absent f x c (wholeOperation_construction c o).lines h
  | true => rw [construction, levelAfter_append, levelAfter_rst_initActions f _ c h, if_pos rfl]

theorem levelAfter_cs_construction {α : Type} (f : Level → α) (x : α) :
    levelAfter f .cs x (construction c o) = if c.hasCs then f c.csActiveLevel.flip else x := by
  cases h : c.hasCs with
  | false => exact levelAfter_of_absent f x c (wholeOperation_construction c o).lines h
  | true => rw [construction, levelAfter_append, levelAfter_cs_initActions f _ c h, if_pos rfl]

theorem levelAfter_cd_construction {α : Type} (f : Level → α) (x : α) :
    levelAfter f .cd x (construction c o) = f c.cdCommandLevel := by
  rw [construction, levelAfter_append, levelAfter_cd_initActions]

/-! ### The run -/

/-- An action list splits at any one of its writes. -/
theorem exists_split_of_lt_writesOf {n : Nat} {as : List Action} (h : n < (writesOf as).length) :
    ∃ before bs after, as = before ++ .busWrite bs :: after ∧ (writesOf before).length = n := by
  induction as generalizing n with
  | nil => simp at h
  | cons a as ih =>
    rw [writesOf_cons, List.length_append] at h
    by_cases hlater : (a.write?.toList).length ≤ n
    · obtain ⟨before, bs, after, rfl, hlen⟩ := ih (n := n - a.write?.toList.length) (by omega)
      refine ⟨a :: before, bs, after, rfl, ?_⟩
      rw [writesOf_cons, List.length_append, hlen]
      omega
    · cases a with
      | busWrite bs =>
        have hzero : n = 0 := by simpa [Action.write?] using hlater
        exact ⟨[], bs, as, rfl, hzero.symm⟩
      | lineConfig | lineSet | busConfig | wait | setSess => simp [Action.write?] at hlater

variable {s : State}

theorem State.AtReset.working (h : s.AtReset) (hc : configRefusal s.cfg = none) (hr : s.rstN = []) : s.Working :=
  ⟨hc, by simp [h.uninit], h.busy, h.nonePending, hr⟩

/-- The waiting block after the construction sequence of line order `o`, whose sixteen writes were answered. -/
def State.initialized (o : LineOrder) (more : List TransportAnswer) (s : State) : State :=
  { s with
    sess := .ready
    busy := false
    seq := []
    lvlRst := if s.cfg.hasRst then some (.driven .high) else none
    lvlCs := if s.cfg.hasCs then some (.driven s.cfg.csActiveLevel.flip) else none
    lvlCd := .driven s.cfg.cdCommandLevel
    trace := s.trace ++ eventsOf s.cfg ((orderedLines o).flatMap (lineConfigOf s.cfg)) ++ initEvents s.cfg
    answers := more }

/-- The state that the construction's actions leave, completed, is that block: no response, for the automatic
initialization (10_state.md R27). -/
theorem complete_ran_construction (h : s.AtReset) (o : LineOrder) (more : List TransportAnswer) :
    (s.ran (construction s.cfg o) [] more).complete = s.initialized o more := by
  have hsess : sessAfter s.sess (construction s.cfg o) = .ready := by
    rw [h.uninit, sessAfter_of_sessionPath (sessionPath_construction s.cfg o)]
  have htrace : eventsOf s.cfg (construction s.cfg o)
      = eventsOf s.cfg ((orderedLines o).flatMap (lineConfigOf s.cfg)) ++ initEvents s.cfg := by
    rw [construction, eventsOf_append, eventsOf_initActions]
  have hrst : levelAfter (fun v => some (.driven v)) .rst s.lvlRst (construction s.cfg o)
      = if s.cfg.hasRst then some (.driven .high) else none := by
    rw [levelAfter_rst_construction, h.rst]
    split <;> rfl
  have hcs : levelAfter (fun v => some (.driven v)) .cs s.lvlCs (construction s.cfg o)
      = if s.cfg.hasCs then some (.driven s.cfg.csActiveLevel.flip) else none := by
    rw [levelAfter_cs_construction, h.cs]
    split <;> rfl
  rw [complete_eq]
  simp [State.ran, State.initialized, hsess, htrace, hrst, hcs, levelAfter_cd_construction, h.automatic]

theorem leadsTo_initialized (h : s.AtReset) (hc : configRefusal s.cfg = none) (hr : s.rstN = [])
    {o : LineOrder} (hseq : s.seq = construction s.cfg o) {more : List TransportAnswer}
    (ha : s.answers = List.replicate 16 .ok ++ more) : s.LeadsTo (s.initialized o more) := by
  rw [← complete_ran_construction h, ← hseq]
  refine (h.working hc hr).leadsTo_complete h.clock ?_ ?_ ?_
  · exact hseq ▸ (wholeOperation_construction s.cfg o).lines
  · exact hseq ▸ setSess_faulted_not_mem_of_sessionPath (sessionPath_construction s.cfg o)
  · rw [hseq, writesOf_construction]
    exact ha

theorem initialized_waiting (h : s.AtReset) (hc : configRefusal s.cfg = none) (hr : s.rstN = [])
    (o : LineOrder) (more : List TransportAnswer) : (s.initialized o more).Waiting :=
  ⟨hc, rfl, rfl, rfl, h.nonePending, hr⟩

/-- The actions before any one of the sixteen writes are as the run before a failing write needs them. -/
theorem exists_construction_split {n : Nat} (hn : n < 16) : ∃ before bs after,
    construction c o = before ++ .busWrite bs :: after ∧ (writesOf before).length = n ∧
      (∀ a ∈ before, ∀ l, a.line? = some l → hasLine c l = true) ∧ Action.setSess .faulted ∉ before := by
  obtain ⟨before, bs, after, hsplit, hlen⟩ :=
    exists_split_of_lt_writesOf (n := n) (as := construction c o) (by rw [writesOf_construction]; exact hn)
  have hin {a : Action} (hm : a ∈ before) : a ∈ construction c o := hsplit ▸ List.mem_append_left _ hm
  exact ⟨before, bs, after, hsplit, hlen, fun a hm => (wholeOperation_construction c o).lines a (hin hm),
    fun hm => setSess_faulted_not_mem_of_sessionPath (sessionPath_construction c o) (hin hm)⟩

end Sys2Proof.Machine
end

section
/-! PROOFS. The statements of the family 42_session.md, settled. -/

namespace Sys2Proof.Machine

/-- Settles O32: the meaning loads the initialization's list, which is the written-out one. -/
theorem initLoadsItsSequence : Obligations.InitLoadsItsSequence := by
  intro s
  rw [exec_init, initActions_eq]
  rfl

/-- Settles O45: each transaction emits three events, six with chip-select, and the reset pulse three. -/
theorem eventCountsOfWholeOperations : Obligations.EventCountsOfWholeOperations := by
  refine ⟨fun s t h => ?_, fun s t h => ?_⟩
  · obtain rfl := Host.Outcome.next.inj ((exec_init s).symm.trans h)
    rw [State.load_seq, writesOf_initActions, eventsOf_initActions, initEvents_length]
    refine ⟨rfl, ?_⟩
    cases s.cfg.hasRst <;> cases s.cfg.hasCs <;> rfl
  · obtain rfl := Host.Outcome.next.inj ((exec_sendBuffer s).symm.trans h)
    rw [State.load_seq, eventsOf_sendBufferActions_length]
    refine ⟨writesOf_sendBufferActions_length .., ?_⟩
    cases s.cfg.hasCs <;> rfl

/-- Settles O55: the construction runs as an operation of the block; permuting the line configurations permutes the
lines, and a failing write is one of the sixteen (O54). -/
theorem constructionReachesReadyOrFaulted : Obligations.ConstructionReachesReadyOrFaulted := by
  refine ⟨fun c o => ⟨_, orderedLineConfigs_perm c o, rfl⟩, fun c lines h => exists_construction_of_perm h,
    fun s more hc h hr ha => ?_, fun s n more hc h hr hn ha => ?_⟩
  · obtain ⟨o, hseq⟩ := h.construction
    have hrun : s.LeadsTo (s.initialized o more) := leadsTo_initialized h hc hr hseq ha
    have hstatus : (s.initialized o more).status = 0x02 := (status_eq_ready_iff _).mpr ⟨h.noFault, rfl, rfl⟩
    exact ⟨_, _, hrun, initialized_waiting h hc hr o more, orderedLineConfigs_perm s.cfg o, rfl, rfl, rfl, rfl,
      h.noFault, hstatus, rfl, rfl, rfl⟩
  · obtain ⟨o, hseq⟩ := h.construction
    obtain ⟨before, bs, after, hsplit, rfl, hlines, hnf⟩ := exists_construction_split s.cfg o hn
    obtain ⟨t, hrun, -, hfaulted, hcode, hinfo, -, -, hidle, hfb, -, -, -, hresponses⟩ :=
      failedWriteEndsTheOperation s before after bs more (h.working hc hr) h.clock (hseq.trans hsplit) hlines hnf ha
    exact ⟨t, hrun, hfaulted, hcode, hinfo.trans h.autoOp, hidle, by simp [hresponses, h.automatic], hfb⟩

/-- Settles O57: both times the operation is accepted, its one write answered and its ACK returned; the registers and
levels that the second run writes have their values from the first. -/
theorem repeatedContrastOnlyExtendsTheTrace : Obligations.RepeatedContrastOnlyExtendsTheTrace := by
  intro s v w later more hi hw hword hwords ha
  have hd : decodeHost w = .ok (.setContrast v) := by rw [hword, contrastWord_eq, decodeHost_setContrast]
  rw [← contrastByte_toNat]
  have hfirst := hw.leadsTo_commanded (bs := [0x81, contrastByte v]) hi.clockFixed hwords ha hd rfl
  have hwaits : (s.commanded w (w :: later) [0x81, contrastByte v] (.ok :: more)).Waiting := hw.commanded
  have hsecond := hwaits.leadsTo_commanded (bs := [0x81, contrastByte v]) hi.clockFixed rfl rfl hd rfl
  rw [State.commanded_commanded] at hsecond
  exact ⟨_, hfirst, hwaits, rfl, rfl, rfl, rfl, hsecond⟩

end Sys2Proof.Machine
end

section
/-! PROOFS. The reset (70_reset_and_hazards.md R105, R106): its values meet the invariant, a run of low samples is one
reset with that many draws taken, and the samples still to come are not read by the block's own step. -/

namespace Sys2Proof.Machine

/-! ### The reset values meet the invariant -/

theorem configRefusal_block : configRefusal Config.block = none :=
  configRefusal_of_admitted rfl (Nat.le_add_left ..) (Nat.succ_pos _)

section

variable {s : State}

theorem State.AtReset.lasting (h : s.AtReset) (hc : configRefusal s.cfg = none)
    (ht : ∀ e ∈ s.trace, eventAllowed s.cfg e = true) : s.Lasting where
  configAdmitted := hc
  bufferWhole := h.buffer
  clockFixed := h.clock
  rstPresence := by rw [h.rst]; cases s.cfg.hasRst <;> rfl
  csPresence := by rw [h.cs]; cases s.cfg.hasCs <;> rfl
  automaticOp := fun _ => h.autoOp
  automaticResp := fun _ => h.noResp
  traceAllowed := ht

/-- No line is driven yet (R106). -/
theorem State.AtReset.csAsserted (h : s.AtReset) : s.csAsserted = false := by
  rw [State.csAsserted, h.cs]
  cases s.cfg.hasCs <;> simp

/-- The automatic initialization is in progress, from its first action on (R107). -/
theorem State.AtReset.running (h : s.AtReset) : s.Running := by
  obtain ⟨o, hseq⟩ := h.construction
  have hwhole : WholeOperation s.cfg s.seq := hseq ▸ wholeOperation_construction s.cfg o
  exact
    { busy := h.busy
      notFaulted := by simp [h.uninit]
      noFault := h.noFault
      noInfo := h.noInfo
      path := by rw [h.uninit, hseq]; exact sessionPath_construction s.cfg o
      framed := by rw [h.csAsserted]; exact hwhole.framed _ _
      pendingWrite := by simp [h.nonePending]
      pendingDelay := by simp [h.nonePending]
      waits := hwhole.waits
      lines := hwhole.lines
      hostResp := by simp [h.automatic] }

theorem State.AtReset.inv (h : s.AtReset) (hc : configRefusal s.cfg = none)
    (ht : ∀ e ∈ s.trace, eventAllowed s.cfg e = true) : s.Inv :=
  h.running.inv (h.lasting hc ht)

end

/-! ### Low samples -/

/-- A run of low samples is one reset: what a reset keeps it has kept each time, and only the last draws stay. -/
theorem runSteps_low {s : State} (hc : configRefusal s.cfg = none) {k : Nat} {later : List Level}
    (hr : s.rstN = List.replicate (k + 1) .low ++ later) :
    runSteps (k + 1) s = .next ({ s with rstN := later, resets := s.resets + k } : State).resetBlock := by
  induction k generalizing s with
  | zero => exact (runSteps_succ (step_reset hc hr) 0).trans (runSteps_zero _)
  | succ k ih =>
    rw [List.replicate_succ, List.cons_append] at hr
    have hrest := ih (s := ({ s with rstN := List.replicate (k + 1) .low ++ later } : State).resetBlock) hc rfl
    rw [runSteps_succ (step_reset hc hr), hrest, State.resetBlock_resets, Nat.add_right_comm, Nat.add_assoc]
    rfl

/-! ### The samples still to come -/

/-- The same outcome, with other samples of `rst_n` still to come. -/
def Result.withRstN (later : List Level) : Result → Result
  | .next s => .next { s with rstN := later }
  | .fault r => .fault r
  | .refused r => .refused r

variable (later : List Level) (s : State)

theorem raiseFault_withRstN (code : FaultCode) (w : Word) :
    ({ s with rstN := later } : State).raiseFault code w = { s.raiseFault code w with rstN := later } := by
  rw [raiseFault_eq_withFault, raiseFault_eq_withFault]
  rfl

theorem complete_withRstN : ({ s with rstN := later } : State).complete = { s.complete with rstN := later } := by
  rw [complete_eq, complete_eq]

theorem lineAction_withRstN (l : Line) (v : Level) (e : Event) :
    lineAction l v e { s with rstN := later } = Result.withRstN later (lineAction l v e s) := by
  have hdrive : ({ s with rstN := later } : State).driveLine l v = { s.driveLine l v with rstN := later } := by
    cases l <;> rfl
  simp only [lineAction, hdrive]
  split <;> rfl

theorem doAction_withRstN (a : Action) :
    doAction a { s with rstN := later } = Result.withRstN later (doAction a s) := by
  cases a with
  | lineConfig l v | lineSet l v => exact lineAction_withRstN ..
  | busConfig | busWrite | wait | setSess => rfl

theorem transportStep_withRstN (bs : List Byte) :
    transportStep bs { s with rstN := later } = Result.withRstN later (transportStep bs s) := by
  unfold transportStep
  dsimp only
  split
  · rfl
  · next more _ => exact congrArg _ (raiseFault_withRstN later { s.emit (.writeFault bs) with answers := more } ..)
  · rfl
  · rfl

theorem exec_withRstN (i : Instr) : exec i { s with rstN := later } = Result.withRstN later (exec i s) := by
  cases i with
  | fbWrite off d =>
    simp only [exec, execFbWrite]
    split
    · rfl
    · exact congrArg _ (raiseFault_withRstN ..)
  | fbRead off =>
    simp only [exec, execFbRead]
    split
    · rfl
    · exact congrArg _ (raiseFault_withRstN ..)
  | illegalOp0 | illegalOp8 | illegalOp9 | illegalOpA | illegalOpB | illegalOpC | illegalOpD | illegalOpE
  | illegalOpF => exact congrArg _ (raiseFault_withRstN ..)
  | _ => rfl

theorem busyStep_withRstN : busyStep { s with rstN := later } = Result.withRstN later (busyStep s) := by
  unfold busyStep sequencerStep
  dsimp only
  split
  · split
    · exact congrArg _ (complete_withRstN ..)
    · next a rest _ =>
      rw [runAction_eq, runAction_eq]
      exact doAction_withRstN later { s with seq := rest } a
  · exact transportStep_withRstN ..
  · rfl

theorem idleStep_withRstN : idleStep { s with rstN := later } = Result.withRstN later (idleStep s) := by
  unfold idleStep acceptWord
  dsimp only
  split
  · rfl
  · next w more _ =>
    split
    · split
      · exact exec_withRstN later (s.accepted w more) _
      · exact congrArg _ (raiseFault_withRstN later (s.accepted w more) ..)
    · rfl

/-- The samples still to come are read by `sampleReset` alone (R105). -/
theorem blockStep_withRstN : blockStep { s with rstN := later } = Result.withRstN later (blockStep s) := by
  unfold blockStep
  dsimp only
  split
  · rfl
  · split
    · exact busyStep_withRstN ..
    · exact idleStep_withRstN ..

end Sys2Proof.Machine
end

section
/-! PROOFS. The statements of the family 70_reset_and_hazards.md, settled. -/

namespace Sys2Proof.Machine

/-- Settles O7: the high sample is taken off, and what is left of the samples is not read by the block's own step. -/
theorem rstHighLeavesTheStepAsItIs : Obligations.RstHighLeavesTheStepAsItIs := by
  intro s t later hr h
  obtain ⟨hc, -⟩ := step_next h
  calc step { s with rstN := .high :: later }
      = blockStep { s with rstN := later } := step_notReset (s := { s with rstN := .high :: later }) hc (by simp)
    _ = Result.withRstN later (blockStep s) := blockStep_withRstN later s
    _ = .next { t with rstN := later } := by rw [← step_released hc hr, h]; rfl

/-- Settles O52: the run of low samples is one reset: it gives the reset values and keeps ports and inputs. -/
theorem resetAbandonsTheOperation : Obligations.ResetAbandonsTheOperation :=
  fun _ _ _ hc hr => ⟨_, runSteps_low hc hr, atReset_resetBlock _, rfl, rfl, rfl, rfl, rfl, rfl⟩

/-- Settles O47: the reset values meet the invariant with a trace of allowed events, here the empty one. -/
theorem resetHasInvariant : Obligations.ResetHasInvariant :=
  atReset_reset.inv configRefusal_block (List.forall_mem_nil _)

end Sys2Proof.Machine
end
